-- ==== Sys2Proof/Word.lean ====
section
/-! DEFINITION. The bit-vector types the spec uses, and nothing else. -/

namespace Sys2Proof

/-- An 8-bit value: a general register, a timer, a memory byte, NN (R16, R20, R29). -/
abbrev Byte := BitVec 8

/-- A 16-bit value: an instruction word, pc, I, a stack entry (R24, R25, R27, R63). -/
abbrev Word := BitVec 16

/-- A 12-bit field NNN (R65). -/
abbrev Addr12 := BitVec 12

/-- A 4-bit field: a register index X or Y, a row count N, a key index (R65, R67). -/
abbrev Nibble := BitVec 4

/-- A boolean used as a number is 1 for true and 0 for false (R16). -/
def flagByte (b : Bool) : Byte := if b then 1#8 else 0#8

end Sys2Proof
end

