-- ==== Sys2Proof/Config.lean ====
section
/-! DEFINITION. The fixed parameters (R6), the configuration record of R43 with the parameters
R7 to R14, its defaults, and the one parameter the spec leaves open (R12). -/

namespace Sys2Proof

/-- MEM_SIZE (R6). -/
abbrev memSize : Nat := 4096

/-- LOAD_ADDR (R6). -/
abbrev loadAddr : Nat := 0x200

/-- MAX_IMAGE = MEM_SIZE - LOAD_ADDR (R6). -/
abbrev maxImage : Nat := memSize - loadAddr

/-- STACK_DEPTH (R6). -/
abbrev stackDepth : Nat := 16

/-- FONT_GLYPHS glyphs of 5 bytes (R6). -/
abbrev fontSize : Nat := 80

/-- DISPLAY columns (R6). -/
abbrev displayWidth : Nat := 64

/-- DISPLAY rows (R6). -/
abbrev displayHeight : Nat := 32

/-- ADDR_MODE: how an effective address at or above MEM_SIZE is treated (R7, R49). -/
inductive AddrMode where
  | fault
  | wrap
  | clamp
deriving DecidableEq, Repr, Inhabited

/-- PC_ALIGN: whether a fetch at an odd pc faults (R8, R53). -/
inductive PcAlign where
  | strict
  | relaxed
deriving DecidableEq, Repr, Inhabited

/-- FONT_ADDR_MULT, which is 5 or 1 (R11). -/
inductive FontAddrMult where
  | five
  | one
deriving DecidableEq, Repr, Inhabited

/-- The multiplier as a number (R11). -/
def FontAddrMult.toNat : FontAddrMult → Nat
  | .five => 5
  | .one => 1

/-- SHIFT_SOURCE: the operand of 8XY6 and 8XYE (R12). -/
inductive ShiftSource where
  | vy
  | vx
deriving DecidableEq, Repr, Inhabited

/-- KEY_INDEX_MODE: what EX9E and EXA1 do when VX > 0xF (R13, R129). -/
inductive KeyIndexMode where
  | fault
  | lowNibble
deriving DecidableEq, Repr, Inhabited

/-- LOAD_OVERSIZE: what Load does with an image longer than MAX_IMAGE (R14, R162). -/
inductive LoadOversize where
  | truncate
  | reject
deriving DecidableEq, Repr, Inhabited

/-- Config of R43. FONT_BASE is constrained by R9; the constraint is checked in WellFormed.lean (log 13). -/
structure Config where
  addrMode     : AddrMode
  pcAlign      : PcAlign
  fontBase     : Nat
  fontTable    : Vector Byte 80
  fontAddrMult : FontAddrMult
  shiftSource  : ShiftSource
  keyIndexMode : KeyIndexMode
  loadOversize : LoadOversize
deriving DecidableEq, Repr

/-- The default FONT_TABLE of R160. PRESUMED (log 5): the spec itself marks these bytes
"from general knowledge, not in source". -/
def defaultFontTable : Vector Byte 80 :=
  #v[0xF0, 0x90, 0x90, 0x90, 0xF0,   -- 0
     0x20, 0x60, 0x20, 0x20, 0x70,   -- 1
     0xF0, 0x10, 0xF0, 0x80, 0xF0,   -- 2
     0xF0, 0x10, 0xF0, 0x10, 0xF0,   -- 3
     0x90, 0x90, 0xF0, 0x10, 0x10,   -- 4
     0xF0, 0x80, 0xF0, 0x10, 0xF0,   -- 5
     0xF0, 0x80, 0xF0, 0x90, 0xF0,   -- 6
     0xF0, 0x10, 0x20, 0x40, 0x40,   -- 7
     0xF0, 0x90, 0xF0, 0x90, 0xF0,   -- 8
     0xF0, 0x90, 0xF0, 0x10, 0xF0,   -- 9
     0xF0, 0x90, 0xF0, 0x90, 0x90,   -- A
     0xE0, 0x90, 0xE0, 0x90, 0xE0,   -- B
     0xF0, 0x80, 0x80, 0x80, 0xF0,   -- C
     0xE0, 0x90, 0x90, 0x90, 0xE0,   -- D
     0xF0, 0x80, 0xF0, 0x80, 0xF0,   -- E
     0xF0, 0x80, 0xF0, 0x80, 0x80]   -- F

/-- SHIFT_SOURCE has no default (R12: "a model takes it as an argument"). It is left open: no proof
can see which of the two values this is (log 4). -/
opaque Config.unstatedShiftSource : ShiftSource

/-- The defaults of R7 to R11, R13 and R14, with SHIFT_SOURCE left open (log 4, log 5). -/
def Config.default : Config where
  addrMode := .fault
  pcAlign := .strict
  fontBase := 0x050
  fontTable := defaultFontTable
  fontAddrMult := .five
  shiftSource := Config.unstatedShiftSource
  keyIndexMode := .fault
  loadOversize := .truncate

end Sys2Proof
end

