-- ==== Sys2Proof/Syntax.lean ====
section
/-! DEFINITION. The 34 instructions, one constructor per row of the opcode map (R69), in its order.
Operands have exactly the widths of the fields of R65, and every value of a field is legal (R67). -/

namespace Sys2Proof

/-- The instruction set of R69. `seReg` and `sneReg` keep the field N, which the engine ignores
(R71), so that an instruction stands for exactly one word (log 9). -/
inductive Instr where
  /-- 00E0, CLS (R123). -/
  | cls
  /-- 00EE, RET (R90). -/
  | ret
  /-- 1NNN, JP NNN (R91). -/
  | jp (nnn : Addr12)
  /-- 2NNN, CALL NNN (R92). -/
  | call (nnn : Addr12)
  /-- 3XNN, SE VX, NN (R94). -/
  | seImm (x : Nibble) (nn : Byte)
  /-- 4XNN, SNE VX, NN (R95). -/
  | sneImm (x : Nibble) (nn : Byte)
  /-- 5XYN, SE VX, VY (R96). -/
  | seReg (x y n : Nibble)
  /-- 6XNN, LD VX, NN (R102). -/
  | ldImm (x : Nibble) (nn : Byte)
  /-- 7XNN, ADD VX, NN (R103). -/
  | addImm (x : Nibble) (nn : Byte)
  /-- 8XY0, LD VX, VY (R104). -/
  | ldReg (x y : Nibble)
  /-- 8XY1, OR VX, VY (R105). -/
  | orReg (x y : Nibble)
  /-- 8XY2, AND VX, VY (R106). -/
  | andReg (x y : Nibble)
  /-- 8XY3, XOR VX, VY (R107). -/
  | xorReg (x y : Nibble)
  /-- 8XY4, ADD VX, VY (R108). -/
  | addReg (x y : Nibble)
  /-- 8XY5, SUB VX, VY (R109). -/
  | subReg (x y : Nibble)
  /-- 8XY6, SHR VX, VY (R110). -/
  | shrReg (x y : Nibble)
  /-- 8XY7, SUBN VX, VY (R112). -/
  | subnReg (x y : Nibble)
  /-- 8XYE, SHL VX, VY (R111). -/
  | shlReg (x y : Nibble)
  /-- 9XYN, SNE VX, VY (R97). -/
  | sneReg (x y n : Nibble)
  /-- ANNN, LD I, NNN (R115). -/
  | ldI (nnn : Addr12)
  /-- BNNN, JP V0, NNN (R98). -/
  | jpV0 (nnn : Addr12)
  /-- CXNN, RND VX, NN (R113). -/
  | rnd (x : Nibble) (nn : Byte)
  /-- DXYN, DRW VX, VY, N (R125). -/
  | drw (x y n : Nibble)
  /-- EX9E, SKP VX (R130). -/
  | skp (x : Nibble)
  /-- EXA1, SKNP VX (R131). -/
  | sknp (x : Nibble)
  /-- FX07, LD VX, DT (R134). -/
  | ldVxDt (x : Nibble)
  /-- FX0A, LD VX, K (R132). -/
  | ldVxKey (x : Nibble)
  /-- FX15, LD DT, VX (R135). -/
  | ldDtVx (x : Nibble)
  /-- FX18, LD ST, VX (R136). -/
  | ldStVx (x : Nibble)
  /-- FX1E, ADD I, VX (R116). -/
  | addI (x : Nibble)
  /-- FX29, LD F, VX (R118). -/
  | ldFont (x : Nibble)
  /-- FX33, LD B, VX (R120). -/
  | ldBcd (x : Nibble)
  /-- FX55, LD [I], VX (R121). -/
  | storeRegs (x : Nibble)
  /-- FX65, LD VX, [I] (R122). -/
  | loadRegs (x : Nibble)
deriving DecidableEq, Repr

end Sys2Proof
end

