-- ==== Sys2Proof/WellFormed.lean ====
section
/-! DEFINITION. The checks on what is given to the model from outside: the configuration (R9) and the
assembler's form of an instruction (R75). Every term of `Instr` is well formed by its types: each
operand has exactly its field's width and every value of a field is legal (R65, R67), so there is no
check on instructions beyond the assembler's. -/

namespace Sys2Proof

/-- FONT_BASE + 80 ≤ LOAD_ADDR (R9): the font lies wholly below the program. -/
def Config.wellFormed (c : Config) : Bool := decide (c.fontBase + fontSize ≤ loadAddr)

/-- The form the assembler of R75 writes: the ignored field N of 5XYN and 9XYN is 0. Every other form
executes too (R71); the check is on listings, not on what runs. -/
def Instr.assembled : Instr → Bool
  | .seReg _ _ n => n == 0#4
  | .sneReg _ _ n => n == 0#4
  | _ => true

end Sys2Proof
end

