-- ==== Sys2Proof/Machine/State.lean ====
section
/-! DEFINITION. The complete state of the block (R43), its interface ports (R39 to R41), the host's
transactions still to come, and the state after Reset (R44, R157). Plain data throughout. -/

namespace Sys2Proof.Machine

/-- mode, the engine's execution mode (R35). -/
inductive Mode where
  /-- After reset, before a Load has completed. -/
  | reset
  /-- A Cycle fetches and executes one instruction. -/
  | running
  /-- An FX0A with register field x is waiting for a key. -/
  | awaitingKey (x : Nibble)
  /-- A fault occurred; a Cycle does nothing until Reset. -/
  | halted
deriving DecidableEq, Repr

/-- The fault codes of R138. These are the spec's own faults: taking one is a next state in which the
machine is Halted (R139), not a stop of the model. -/
inductive FaultCode where
  | stackOverflow
  | stackUnderflow
  | addressOutOfRange
  | misalignedFetch
  | keyIndexOutOfRange
deriving DecidableEq, Repr

/-- The fault record (R36). -/
structure FaultRecord where
  code : FaultCode
  /-- Address of the failing instruction. -/
  pc : Word
  /-- The instruction word, 0 when `opcodeValid` is false. -/
  opcode : Word
  /-- False for a fault during fetch. -/
  opcodeValid : Bool
  /-- The info of R138: an effective address, a pc or a key index; 0 otherwise (log 11). -/
  addr : BitVec 17
deriving DecidableEq, Repr

/-- The UnknownOpcode diagnostic (R145). -/
structure Diag where
  opcode : Word
  pc : Word
deriving DecidableEq, Repr

/-- The outcome of a Cycle (R87) or of a Load (R161). -/
inductive Report where
  | notStarted
  | executed
  | unknown (opcode pc : Word)
  | enteredWait (x : Nibble)
  | waiting
  | keyLatched (x k : Nibble)
  | faulted (record : FaultRecord)
  | halted
  | loaded (length : Nat)
  | loadRefused
  | loadRejected
deriving DecidableEq, Repr

/-- The host's transactions (R39). -/
inductive Transaction where
  | reset
  | load (image : List Byte)
  | cycle (keys : BitVec 16) (rnd : Byte)
  | tick
deriving DecidableEq, Repr

/-- Memory: the cells that differ from the reset contents, addresses strictly rising (log 6).
Read and written only through Machine/Ops.lean. -/
abbrev Memory := List Host.Cell

/-- The state: R43's record, its Config, the ports of R40 and R41, and the host's transactions. -/
structure State where
  /-- V0..VF (R20). -/
  v : Vector Byte 16
  /-- I (R24). -/
  i : Word
  /-- pc (R25). -/
  pc : Word
  /-- stack[0..15] (R27). -/
  stack : Vector Word 16
  /-- sp, the number of stack entries in use (R27). -/
  sp : Fin 17
  /-- DT (R29). -/
  dt : Byte
  /-- ST (R30). -/
  st : Byte
  /-- fb: bit x of row y is fb[y][x] (R31). -/
  fb : Vector (BitVec 64) 32
  /-- mem (R38). -/
  mem : Memory
  /-- mode (R35). -/
  mode : Mode
  /-- fault (R36). -/
  fault : Option FaultRecord
  /-- load_truncated (R37). -/
  loadTruncated : Bool
  /-- Config of R43, which no step changes (log 4). -/
  cfg : Config
  /-- The key snapshot of the current Cycle (R32); 0 outside a Cycle, storing nothing (R40; log 2). -/
  keys : BitVec 16
  /-- The random byte of the current Cycle (R33); 0 outside a Cycle, storing nothing (R40; log 2). -/
  rnd : Byte
  /-- The outcome of the last Cycle or Load (R41; log 3). -/
  outcome : Option Report
  /-- The UnknownOpcode diagnostic of the last Cycle, if any (R41, R145; log 3). -/
  diag : Option Diag
  /-- The model's own field: the host's transactions still to come, first one first (R77, R89; log 1). -/
  pending : List Transaction
deriving DecidableEq, Repr

/-- Reasons for the model itself to stop with a fault: there are none. Every fault of the spec has an
entry the spec describes (R139), so it is a next state; every access is resolved before it is made
(R49); no step of the model ends here (safe: nothing is left out by it; log 7). -/
inductive Fault where
deriving DecidableEq, Repr

/-- Reasons for the model to have no meaning for an instruction. -/
inductive Refusal where
  /-- An arm of exec not modelled yet. Raised by no arm: all 34 instructions have their meaning
  (safe: a refusal proves nothing about the hardware). -/
  | notModelled (mnemonic : String)
deriving DecidableEq, Repr

/-- What one step, or one instruction, answers. -/
abbrev Answer := Host.Outcome State Fault Refusal

/-- The state right after reset (R44, R157): memory lists nothing, so it holds the font and zeros.
The configuration is that of the defaults with SHIFT_SOURCE left open (log 4); the ports hold what
log 2 and log 3 name; the host has sent nothing yet (log 1). -/
def State.reset : State where
  v := Vector.replicate 16 0#8
  i := 0#16
  pc := 0x200#16
  stack := Vector.replicate 16 0#16
  sp := 0
  dt := 0#8
  st := 0#8
  fb := Vector.replicate 32 0#64
  mem := []
  mode := .reset
  fault := none
  loadTruncated := false
  cfg := Config.default
  keys := 0#16
  rnd := 0#8
  outcome := none
  diag := none
  pending := []

end Sys2Proof.Machine
end

