-- ==== Sys2Proof/Machine/Ops.lean ====
section
/-! DEFINITION. The named operations: registers, memory and address resolution, the call stack, the
display cells, how an instruction completes, and fault entry. -/

namespace Sys2Proof.Machine

/-! ## Updates, one per group of fields -/

/-- I <- a. -/
def State.setI (a : Word) (s : State) : State := { s with i := a }

/-- pc <- a (R25). -/
def State.setPc (a : Word) (s : State) : State := { s with pc := a }

/-- DT <- b. -/
def State.setDt (b : Byte) (s : State) : State := { s with dt := b }

/-- ST <- b. -/
def State.setSt (b : Byte) (s : State) : State := { s with st := b }

/-- Replace the display buffer. -/
def State.setFb (d : Vector (BitVec 64) 32) (s : State) : State := { s with fb := d }

/-- Replace the memory. -/
def State.setMem (m : Memory) (s : State) : State := { s with mem := m }

/-- mode <- m. -/
def State.setMode (m : Mode) (s : State) : State := { s with mode := m }

/-- Replace the call stack and its depth. -/
def State.setStack (k : Vector Word 16) (n : Fin 17) (s : State) : State :=
  { s with stack := k, sp := n }

/-- outcome <- r (R83, R87). -/
def State.report (r : Report) (s : State) : State := { s with outcome := some r }

/-- The host's remaining transactions (log 1). -/
def State.setPending (l : List Transaction) (s : State) : State := { s with pending := l }

/-! ## General registers -/

/-- V[x] (R17, R20). -/
def State.readReg (s : State) (x : Nibble) : Byte :=
  s.v[x.toNat]'(by have := x.isLt; omega)

/-- V[x] <- b (R17, R20). -/
def State.writeReg (x : Nibble) (b : Byte) (s : State) : State :=
  { s with v := s.v.set x.toNat b (by have := x.isLt; omega) }

/-- V[k], V[k+1], … <- the bytes in order, as far as there are registers (R122). -/
def State.writeRegsFrom (k : Nat) : List Byte → State → State
  | [], s => s
  | b :: bs, s => State.writeRegsFrom (k + 1) bs (s.writeReg (BitVec.ofNat 4 k) b)

/-- V0..VX in order (R121). -/
def State.regsUpTo (s : State) (x : Nibble) : List Byte := s.v.toList.take (x.toNat + 1)

/-! ## Memory -/

/-- What a byte that nothing has written holds: the font at FONT_BASE, 0 elsewhere (R38, R157; log 6). -/
def resetByte (c : Config) (a : Nat) : Byte :=
  if h : c.fontBase ≤ a ∧ a < c.fontBase + 80 then
    c.fontTable[a - c.fontBase]'(by omega)
  else 0#8

/-- mem[a]. -/
def Memory.read (c : Config) (m : Memory) (a : Nat) : Byte :=
  match m with
  | [] => resetByte c a
  | (b, w) :: rest => if b = a then w else Memory.read c rest a

/-- A cell in front of a memory, left out if it holds what an unlisted address reads as. -/
def Memory.cons (c : Config) (a : Nat) (w : Byte) (m : Memory) : Memory :=
  if w = resetByte c a then m else (a, w) :: m

/-- mem[a] <- w, keeping the canonical form. -/
def Memory.write (c : Config) (a : Nat) (w : Byte) : Memory → Memory
  | [] => Memory.cons c a w []
  | (b, u) :: rest =>
    if b = a then Memory.cons c a w rest
    else if a < b then Memory.cons c a w ((b, u) :: rest)
    else (b, u) :: Memory.write c a w rest

/-- Write the cells in the order given (R18, R51). -/
def Memory.writeAll (c : Config) : List Host.Cell → Memory → Memory
  | [], m => m
  | (a, w) :: rest, m => Memory.writeAll c rest (Memory.write c a w m)

/-- The canonical form from address `lo` on: addresses strictly rising and below MEM_SIZE, no cell
equal to what an unlisted address reads as. -/
def Memory.wfFrom (c : Config) (lo : Nat) : Memory → Bool
  | [] => true
  | (a, w) :: rest =>
    decide (lo ≤ a) && decide (a < memSize) && (w != resetByte c a)
      && Memory.wfFrom c (a + 1) rest

/-- The canonical form of memory (log 6). -/
def Memory.wf (c : Config) (m : Memory) : Bool := Memory.wfFrom c 0 m

/-- mem[a] of a state. -/
def State.readMem (s : State) (a : Nat) : Byte := Memory.read s.cfg s.mem a

/-- mem[a] <- w for each cell, in order. -/
def State.writeMem (cells : List Host.Cell) (s : State) : State :=
  s.setMem (Memory.writeAll s.cfg cells s.mem)

/-! ## Faults that an operation raises, and address resolution -/

/-- A fault raised by an operation: its code and the info recorded with it (R18 `raise`, R138). -/
structure Raise where
  code : FaultCode
  addr : BitVec 17
deriving DecidableEq, Repr

/-- Resolve(ea) under ADDR_MODE (R49). -/
def resolve (c : Config) (ea : Nat) : Except Raise Nat :=
  if ea < memSize then .ok ea
  else
    match c.addrMode with
    | .fault => .error ⟨.addressOutOfRange, BitVec.ofNat 17 ea⟩
    | .wrap => .ok (ea % memSize)
    | .clamp => .ok (memSize - 1)

/-- Resolve ea, ea + 1, …, ea + n - 1 in ascending order; the first that is out of range is the one
reported (R50). -/
def resolveRange (c : Config) (ea : Nat) : Nat → Except Raise (List Nat)
  | 0 => .ok []
  | n + 1 =>
    match resolve c ea with
    | .error r => .error r
    | .ok a =>
      match resolveRange c (ea + 1) n with
      | .error r => .error r
      | .ok rest => .ok (a :: rest)

/-! ## The call stack -/

/-- Push(a) (R28). -/
def State.push (a : Word) (s : State) : Except Raise State :=
  if h : s.sp.val < 16 then
    .ok (s.setStack (s.stack.set s.sp.val a h) ⟨s.sp.val + 1, by omega⟩)
  else .error ⟨.stackOverflow, 0#17⟩

/-- Pop() (R28): the entry and the state with one entry fewer; the stale entry is not cleared (R90). -/
def State.pop (s : State) : Except Raise (Word × State) :=
  if h : 0 < s.sp.val then
    .ok (s.stack[s.sp.val - 1]'(by have := s.sp.isLt; omega),
      s.setStack s.stack ⟨s.sp.val - 1, by have := s.sp.isLt; omega⟩)
  else .error ⟨.stackUnderflow, 0#17⟩

/-! ## The display cells -/

/-- fb[y][x]; false outside the grid (R31). -/
def pixelAt (d : Vector (BitVec 64) 32) (x y : Nat) : Bool :=
  if h : y < 32 then d[y].getLsbD x else false

/-- fb[y][x] <- not fb[y][x]; nothing outside the grid. -/
def flipPixel (x y : Nat) (d : Vector (BitVec 64) 32) : Vector (BitVec 64) 32 :=
  if h : y < 32 then d.set y (d[y] ^^^ (1#64 <<< x)) h else d

/-- fb[y][x] of a state. -/
def State.pixel (s : State) (x y : Nat) : Bool := pixelAt s.fb x y

/-! ## Completing an instruction, skipping, and fault entry -/

/-- The instruction completed: outcome <- Executed (R83). -/
def retire (s : State) : Answer := .next (s.report .executed)

/-- Skip if `b`: pc <- (pc + 2) mod 2^16 (R93). -/
def State.skipIf (b : Bool) (s : State) : State := if b then s.setPc (s.pc + 2#16) else s

/-- Fault entry (R139), the one way an exception is taken: the record is written, pc is the failing
instruction's address again, mode <- Halted, outcome <- Faulted. It is applied to a state in which
the Cycle has written nothing but the pc advance, so every write of the Cycle is discarded (R85).
There is no handler, no vector and no return: only the Reset transaction leaves Halted (R141). -/
def takeFault (r : FaultRecord) (s : State) : State :=
  { s with pc := r.pc, fault := some r, mode := .halted, outcome := some (.faulted r) }

/-- A fault of the executing instruction `i`. During Execute pc = a + 2 (R81), so the instruction's
own address is pc - 2 modulo 2^16, and its word is the one that encodes it (log 8). -/
def instrFault (i : Instr) (r : Raise) (s : State) : State :=
  takeFault
    { code := r.code, pc := s.pc - 2#16, opcode := encode i, opcodeValid := true, addr := r.addr } s

/-- A fault during fetch, before the pc advance: no opcode is recorded (R138, R139). -/
def fetchFault (r : Raise) (s : State) : State :=
  takeFault { code := r.code, pc := s.pc, opcode := 0#16, opcodeValid := false, addr := r.addr } s

/-- The answer of instruction `i` run in state `s`: its completed state, or fault entry from `s`. -/
def answer (i : Instr) (s : State) : Except Raise State → Answer
  | .ok t => retire t
  | .error r => .next (instrFault i r s)

end Sys2Proof.Machine
end

