-- ==== Sys2Proof/Machine/Outputs.lean ====
section
/-! DEFINITION. The block's outputs, read by the host between transactions (R41). -/

namespace Sys2Proof.Machine

/-- The numeric fault codes of R138. -/
def FaultCode.number : FaultCode → BitVec 3
  | .stackOverflow => 1#3
  | .stackUnderflow => 2#3
  | .addressOutOfRange => 3#3
  | .misalignedFetch => 4#3
  | .keyIndexOutOfRange => 5#3

/-- fb as one 2048-bit vector, cell (x, y) being bit 64·y + x (R31, R41). -/
def State.fbFlat (s : State) : BitVec 2048 :=
  BitVec.ofFnLE fun k : Fin 2048 => s.pixel (k.val % 64) (k.val / 64)

/-- sound_active = (ST > 0) (R30, R152). -/
def State.soundActive (s : State) : Bool := decide (s.st.toNat > 0)

/-- The code on the `mode` output (R35). -/
def State.modeCode (s : State) : BitVec 2 :=
  match s.mode with
  | .reset => 0#2
  | .running => 1#2
  | .awaitingKey _ => 2#2
  | .halted => 3#2

/-- wait_reg: x when mode = AwaitingKey(x), else 0 (R41). -/
def State.waitReg (s : State) : Nibble :=
  match s.mode with
  | .awaitingKey x => x
  | .reset => 0#4
  | .running => 0#4
  | .halted => 0#4

/-- fault_code; 0 when there is no record (R41). -/
def State.faultCode (s : State) : BitVec 3 := (s.fault.map fun r => r.code.number).getD 0#3

/-- fault_pc; 0 when there is no record (R41). -/
def State.faultPc (s : State) : Word := (s.fault.map fun r => r.pc).getD 0#16

/-- fault_opcode; 0 when there is no record (R41). -/
def State.faultOpcode (s : State) : Word := (s.fault.map fun r => r.opcode).getD 0#16

/-- fault_opcode_valid; false when there is no record (R41). -/
def State.faultOpcodeValid (s : State) : Bool := (s.fault.map fun r => r.opcodeValid).getD false

/-- fault_addr; 0 when there is no record (R41). -/
def State.faultAddr (s : State) : BitVec 17 := (s.fault.map fun r => r.addr).getD 0#17

end Sys2Proof.Machine
end

