-- ==== Sys2Proof/Machine/Flags.lean ====
section
/-! DEFINITION. Every flag computation, and the order in which a result and its flag are written. -/

namespace Sys2Proof.Machine

/-- Carry of 8XY4: the true sum exceeds 255 (R108). -/
def carryOut (vx vy : Byte) : Bool := decide (vx.toNat + vy.toNat > 255)

/-- No-borrow of 8XY5 and 8XY7: the minuend is at least the subtrahend (R109, R112). -/
def noBorrow (minuend subtrahend : Byte) : Bool := decide (minuend.toNat ≥ subtrahend.toNat)

/-- The bit 8XY6 shifts out: src[0] (R110). -/
def shiftedOutRight (src : Byte) : Bool := src.getLsbD 0

/-- The bit 8XYE shifts out: src[7] (R111). -/
def shiftedOutLeft (src : Byte) : Bool := src.getLsbD 7

/-- FX1E's flag: the untruncated sum exceeds 0x0FFF (R116). -/
def indexOverflow (i : Word) (v : Byte) : Bool := decide (i.toNat + v.toNat > 0x0FFF)

/-- V[F] <- flag (R21). -/
def State.writeFlag (b : Bool) (s : State) : State := s.writeReg 0xF#4 (flagByte b)

/-- V[X] <- result, then V[F] <- flag, so that VF holds the flag when X = F (R101). -/
def State.writeResultFlag (x : Nibble) (result : Byte) (flag : Bool) (s : State) : State :=
  (s.writeReg x result).writeFlag flag

end Sys2Proof.Machine
end

