-- ==== Sys2Proof/Machine/Operands.lean ====
section
/-! DEFINITION. Operand forms (R66, R67): immediates, the shift source, key indices, the lowest
pressed key, effective addresses, decimal digits and sprite bits. -/

namespace Sys2Proof.Machine

/-- NNN zero-extended to 16 bits (R66). -/
def target (nnn : Addr12) : Word := nnn.setWidth 16

/-- The source operand of 8XY6 and 8XYE under SHIFT_SOURCE (R110, R111). -/
def State.shiftOperand (s : State) (x y : Nibble) : Byte :=
  match s.cfg.shiftSource with
  | .vy => s.readReg y
  | .vx => s.readReg x

/-- KeyIndex(v) under KEY_INDEX_MODE (R129). -/
def keyIndex (c : Config) (v : Byte) : Except Raise Nibble :=
  if v.toNat ≤ 0xF then .ok (v.setWidth 4)
  else
    match c.keyIndexMode with
    | .fault => .error ⟨.keyIndexOutOfRange, v.setWidth 17⟩
    | .lowNibble => .ok (v.setWidth 4)

/-- keys[k] (R32). -/
def keyPressed (keys : BitVec 16) (k : Nibble) : Bool := keys.getLsbD k.toNat

/-- Scan keys k, k+1, …, up to `n` of them, for the first pressed (R132). -/
def scanKeys (keys : BitVec 16) (k : Nat) : Nat → Option Nibble
  | 0 => none
  | n + 1 => if keys.getLsbD k then some (BitVec.ofNat 4 k) else scanKeys keys (k + 1) n

/-- The lowest k with keys[k] = 1, if any (R132, R133). -/
def lowestKey (keys : BitVec 16) : Option Nibble := scanKeys keys 0 16

/-- The addresses I, I + 1, …, I + n - 1, all resolved (R47, R50). -/
def State.indexAddrs (s : State) (n : Nat) : Except Raise (List Nat) :=
  resolveRange s.cfg s.i.toNat n

/-- The three decimal digits of a byte: hundreds, tens, units (R120). -/
def decimalDigits (b : Byte) : List Byte :=
  [BitVec.ofNat 8 (b.toNat / 100), BitVec.ofNat 8 (b.toNat / 10 % 10), BitVec.ofNat 8 (b.toNat % 10)]

/-- I + VX × FONT_ADDR_MULT from FONT_BASE, modulo 2^16 (R118); the whole byte VX is used (R119). -/
def fontAddr (c : Config) (b : Byte) : Word :=
  BitVec.ofNat 16 (c.fontBase + b.toNat * c.fontAddrMult.toNat)

/-- The pixel at column offset c of a sprite row: b[7 - c] (R124). -/
def spriteBit (b : Byte) (c : Nat) : Bool := b.getLsbD (7 - c)

/-- The start column: V[X] mod 64 (R125). -/
def startColumn (b : Byte) : Nat := b.toNat % displayWidth

/-- The start row: V[Y] mod 32 (R125). -/
def startRow (b : Byte) : Nat := b.toNat % displayHeight

end Sys2Proof.Machine
end

