-- ==== Sys2Proof/Machine/Alu.lean ====
section
/-! DEFINITION. Register arithmetic and logic (42_alu.md): 6XNN, 7XNN, 8XY0 to 8XY7, 8XYE, CXNN. -/

namespace Sys2Proof.Machine

/-- 6XNN (R102). -/
def execLdImm (x : Nibble) (nn : Byte) (s : State) : Answer := retire (s.writeReg x nn)

/-- 7XNN (R103): no flag. -/
def execAddImm (x : Nibble) (nn : Byte) (s : State) : Answer :=
  retire (s.writeReg x (s.readReg x + nn))

/-- 8XY0 (R104). -/
def execLdReg (x y : Nibble) (s : State) : Answer := retire (s.writeReg x (s.readReg y))

/-- 8XY1 (R105): no flag. -/
def execOrReg (x y : Nibble) (s : State) : Answer :=
  retire (s.writeReg x (s.readReg x ||| s.readReg y))

/-- 8XY2 (R106): no flag. -/
def execAndReg (x y : Nibble) (s : State) : Answer :=
  retire (s.writeReg x (s.readReg x &&& s.readReg y))

/-- 8XY3 (R107): no flag. -/
def execXorReg (x y : Nibble) (s : State) : Answer :=
  retire (s.writeReg x (s.readReg x ^^^ s.readReg y))

/-- 8XY4 (R108). -/
def execAddReg (x y : Nibble) (s : State) : Answer :=
  let vx := s.readReg x
  let vy := s.readReg y
  retire (s.writeResultFlag x (vx + vy) (carryOut vx vy))

/-- 8XY5 (R109). -/
def execSubReg (x y : Nibble) (s : State) : Answer :=
  let vx := s.readReg x
  let vy := s.readReg y
  retire (s.writeResultFlag x (vx - vy) (noBorrow vx vy))

/-- 8XY6 (R110). -/
def execShrReg (x y : Nibble) (s : State) : Answer :=
  let src := s.shiftOperand x y
  retire (s.writeResultFlag x (src >>> 1) (shiftedOutRight src))

/-- 8XY7 (R112). -/
def execSubnReg (x y : Nibble) (s : State) : Answer :=
  let vx := s.readReg x
  let vy := s.readReg y
  retire (s.writeResultFlag x (vy - vx) (noBorrow vy vx))

/-- 8XYE (R111). -/
def execShlReg (x y : Nibble) (s : State) : Answer :=
  let src := s.shiftOperand x y
  retire (s.writeResultFlag x (src <<< 1) (shiftedOutLeft src))

/-- CXNN (R113): the Cycle's random byte AND NN. -/
def execRnd (x : Nibble) (nn : Byte) (s : State) : Answer :=
  retire (s.writeReg x (s.rnd &&& nn))

end Sys2Proof.Machine
end

