-- ==== Sys2Proof/Machine/Control.lean ====
section
/-! DEFINITION. Control transfer and the call stack (41_control_flow.md): 00EE, 1NNN, 2NNN, 3XNN, 4XNN,
5XYN, 9XYN, BNNN. On entry pc = a + 2, a being the instruction's address (R81). -/

namespace Sys2Proof.Machine

/-- 00EE (R90): StackUnderflow when sp = 0. -/
def execRet (s : State) : Answer :=
  answer .ret s <|
    match s.pop with
    | .ok (a, t) => .ok (t.setPc a)
    | .error r => .error r

/-- 1NNN (R91). -/
def execJp (nnn : Addr12) (s : State) : Answer := retire (s.setPc (target nnn))

/-- 2NNN (R92): pushes a + 2; StackOverflow when sp = 16. -/
def execCall (nnn : Addr12) (s : State) : Answer :=
  answer (.call nnn) s <|
    match s.push s.pc with
    | .ok t => .ok (t.setPc (target nnn))
    | .error r => .error r

/-- 3XNN (R94). -/
def execSeImm (x : Nibble) (nn : Byte) (s : State) : Answer :=
  retire (s.skipIf (s.readReg x == nn))

/-- 4XNN (R95). -/
def execSneImm (x : Nibble) (nn : Byte) (s : State) : Answer :=
  retire (s.skipIf (s.readReg x != nn))

/-- 5XYN (R96): N is ignored (R71). -/
def execSeReg (x y _n : Nibble) (s : State) : Answer :=
  retire (s.skipIf (s.readReg x == s.readReg y))

/-- 9XYN (R97): N is ignored (R71). -/
def execSneReg (x y _n : Nibble) (s : State) : Answer :=
  retire (s.skipIf (s.readReg x != s.readReg y))

/-- BNNN (R98): always V0. -/
def execJpV0 (nnn : Addr12) (s : State) : Answer :=
  retire (s.setPc (target nnn + (s.readReg 0#4).setWidth 16))

end Sys2Proof.Machine
end

