-- ==== Sys2Proof/Machine/Display.lean ====
section
/-! DEFINITION. The display buffer writer (44_display.md): 00E0, DXYN. -/

namespace Sys2Proof.Machine

/-- A drawing in progress: the buffer and whether some cell went from set to clear (R127). -/
abbrev Canvas := Vector (BitVec 64) 32 × Bool

/-- One sprite pixel at column x, row y: clipped if x ≥ 64 or y ≥ 32; a set sprite bit flips the cell
and records a collision if it was true; a clear one changes nothing (R125 to R127). -/
def drawPixel (bit : Bool) (x y : Nat) (k : Canvas) : Canvas :=
  if x < displayWidth ∧ y < displayHeight ∧ bit = true then
    (flipPixel x y k.1, k.2 || pixelAt k.1 x y)
  else k

/-- Column offsets c, c + 1, … of sprite row `b`, `n` of them (R125). -/
def drawColumns (b : Byte) (x0 y : Nat) (c : Nat) : Nat → Canvas → Canvas
  | 0, k => k
  | n + 1, k => drawColumns b x0 y (c + 1) n (drawPixel (spriteBit b c) (x0 + c) y k)

/-- The sprite rows in order, the first at row y (R125). -/
def drawRows (x0 : Nat) : Nat → List Byte → Canvas → Canvas
  | _, [], k => k
  | y, b :: bs, k => drawRows x0 (y + 1) bs (drawColumns b x0 y 0 8 k)

/-- 00E0 (R123). -/
def execCls (s : State) : Answer := retire (s.setFb (Vector.replicate 32 0#64))

/-- DXYN (R125, R128): the coordinates and every row byte are read first; VF is the collision flag. -/
def execDrw (x y n : Nibble) (s : State) : Answer :=
  answer (.drw x y n) s <|
    match s.indexAddrs n.toNat with
    | .ok addrs =>
      let x0 := startColumn (s.readReg x)
      let y0 := startRow (s.readReg y)
      let k := drawRows x0 y0 (addrs.map s.readMem) (s.fb, false)
      .ok ((s.setFb k.1).writeFlag k.2)
    | .error r => .error r

end Sys2Proof.Machine
end

