-- ==== Sys2Proof/Machine/Index.lean ====
section
/-! DEFINITION. Index register and memory transfers (43_index_memory.md): ANNN, FX1E, FX29, FX33, FX55,
FX65. Every address of an instruction is resolved before any write (R50). -/

namespace Sys2Proof.Machine

/-- ANNN (R115). -/
def execLdI (nnn : Addr12) (s : State) : Answer := retire (s.setI (target nnn))

/-- FX1E (R116): I and VX read first, I written modulo 2^16, then VF. -/
def execAddI (x : Nibble) (s : State) : Answer :=
  let i := s.i
  let v := s.readReg x
  retire ((s.setI (i + v.setWidth 16)).writeFlag (indexOverflow i v))

/-- FX29 (R118, R119). -/
def execLdFont (x : Nibble) (s : State) : Answer :=
  retire (s.setI (fontAddr s.cfg (s.readReg x)))

/-- FX33 (R120). -/
def execLdBcd (x : Nibble) (s : State) : Answer :=
  answer (.ldBcd x) s <|
    match s.indexAddrs 3 with
    | .ok addrs => .ok (s.writeMem (addrs.zip (decimalDigits (s.readReg x))))
    | .error r => .error r

/-- FX55 (R121): V0..VX to I, I + 1, …; I unchanged. -/
def execStoreRegs (x : Nibble) (s : State) : Answer :=
  answer (.storeRegs x) s <|
    match s.indexAddrs (x.toNat + 1) with
    | .ok addrs => .ok (s.writeMem (addrs.zip (s.regsUpTo x)))
    | .error r => .error r

/-- FX65 (R122): V0..VX from I, I + 1, …; I unchanged. -/
def execLoadRegs (x : Nibble) (s : State) : Answer :=
  answer (.loadRegs x) s <|
    match s.indexAddrs (x.toNat + 1) with
    | .ok addrs => .ok (s.writeRegsFrom 0 (addrs.map s.readMem))
    | .error r => .error r

end Sys2Proof.Machine
end

