-- ==== Sys2Proof/Machine/Input.lean ====
section
/-! DEFINITION. Key input and timer access (45_input_timers.md): EX9E, EXA1, FX0A and its wait, FX07,
FX15, FX18. -/

namespace Sys2Proof.Machine

/-- EX9E (R130): KeyIndexOutOfRange by R129. -/
def execSkp (x : Nibble) (s : State) : Answer :=
  answer (.skp x) s <|
    match keyIndex s.cfg (s.readReg x) with
    | .ok k => .ok (s.skipIf (keyPressed s.keys k))
    | .error r => .error r

/-- EXA1 (R131): KeyIndexOutOfRange by R129. -/
def execSknp (x : Nibble) (s : State) : Answer :=
  answer (.sknp x) s <|
    match keyIndex s.cfg (s.readReg x) with
    | .ok k => .ok (s.skipIf (!keyPressed s.keys k))
    | .error r => .error r

/-- FX07 (R134). -/
def execLdVxDt (x : Nibble) (s : State) : Answer := retire (s.writeReg x s.dt)

/-- V[x] <- k and outcome <- KeyLatched(x, k) (R132, R133). -/
def State.latchKey (x k : Nibble) (s : State) : State :=
  (s.writeReg x (k.setWidth 8)).report (.keyLatched x k)

/-- FX0A (R132): a pressed key completes it at once, the lowest index first; otherwise the engine
waits in AwaitingKey(X). -/
def execLdVxKey (x : Nibble) (s : State) : Answer :=
  match lowestKey s.keys with
  | some k => .next (s.latchKey x k)
  | none => .next ((s.setMode (.awaitingKey x)).report (.enteredWait x))

/-- WaitPoll(x, keys): the Cycle in mode AwaitingKey(x) (R133). -/
def waitPoll (x : Nibble) (s : State) : State :=
  match lowestKey s.keys with
  | some k => (s.setMode .running).latchKey x k
  | none => s.report .waiting

/-- FX15 (R135). -/
def execLdDtVx (x : Nibble) (s : State) : Answer := retire (s.setDt (s.readReg x))

/-- FX18 (R136). -/
def execLdStVx (x : Nibble) (s : State) : Answer := retire (s.setSt (s.readReg x))

end Sys2Proof.Machine
end

