-- ==== Sys2Proof/Machine/Transactions.lean ====
section
/-! DEFINITION. The host's transactions: Cycle with its fetch, decode and dispatch (40_engine.md),
Tick (R148), Reset (R157) and Load (R161); and the placing of a word for the next fetch. -/

namespace Sys2Proof.Machine

/-! ## Cycle -/

/-- FetchCheck(pc) under PC_ALIGN (R53). -/
def fetchCheck (c : Config) (pc : Word) : Except Raise Unit :=
  if pc.getLsbD 0 = true ∧ c.pcAlign = .strict then .error ⟨.misalignedFetch, pc.setWidth 17⟩
  else .ok ()

/-- The fetch of R80: the alignment check, then pc and pc + 1 resolved in this order (R142), then the
two bytes, the first being the high byte (R52). -/
def fetch (s : State) : Except Raise Word :=
  match fetchCheck s.cfg s.pc with
  | .error r => .error r
  | .ok _ =>
    match resolve s.cfg s.pc.toNat with
    | .error r => .error r
    | .ok a =>
      match resolve s.cfg (s.pc.toNat + 1) with
      | .error r => .error r
      | .ok b => .ok (wordOfBytes (s.readMem a) (s.readMem b))

/-- pc <- (a + 2) mod 2^16, before executing (R81). -/
def State.advance (s : State) : State := s.setPc (s.pc + 2#16)

/-- UnknownOpcode (R145): after the pc advance, a diagnostic naming the word and its address. -/
def unknownOpcode (w a : Word) (s : State) : State :=
  { s with diag := some ⟨w, a⟩, outcome := some (.unknown w a) }

/-- A Cycle in mode Running (R80): fetch, advance, decode, execute. -/
def fetchExecute (s : State) : Answer :=
  match fetch s with
  | .error r => .next (fetchFault r s)
  | .ok w =>
    match decodeWord w with
    | .ok i => exec i s.advance
    | .error _ => .next (unknownOpcode w s.pc s.advance)

/-- The inputs of this Cycle on the ports, and no diagnostic yet (R40, R145). -/
def State.beginCycle (keys : BitVec 16) (rnd : Byte) (s : State) : State :=
  { s with keys := keys, rnd := rnd, diag := none }

/-- The inputs of the Cycle are gone: they are not stored between cycles, and the idle ports hold 0
(R40; log 2). -/
def State.endCycle (s : State) : State := { s with keys := 0#16, rnd := 0#8 }

/-- A Cycle's answer, its inputs gone (R40). -/
def finishCycle : Answer → Answer
  | .next s => .next s.endCycle
  | .fault r => .fault r
  | .refused r => .refused r

/-- Cycle(keys, rnd), by mode (R80). -/
def cycle (keys : BitVec 16) (rnd : Byte) (s : State) : Answer :=
  finishCycle <|
    match s.mode with
    | .reset => .next ((s.beginCycle keys rnd).report .notStarted)
    | .halted => .next ((s.beginCycle keys rnd).report .halted)
    | .awaitingKey x => .next (waitPoll x (s.beginCycle keys rnd))
    | .running => fetchExecute (s.beginCycle keys rnd)

/-! ## Tick -/

/-- A counter decremented by 1 if it is greater than 0 (R148). -/
def countDown (b : Byte) : Byte := if b = 0#8 then 0#8 else b - 1#8

/-- Tick, in every mode (R148, R149). It has no outcome. -/
def tick (s : State) : State := (s.setDt (countDown s.dt)).setSt (countDown s.st)

/-! ## Reset -/

/-- The Reset transaction, accepted in every mode (R157). The configuration and the host's remaining
transactions stay; R157 writes no output event, so `outcome` and `diag` stay (log 3). The input ports
are idle (log 2). -/
def resetTransaction (s : State) : State :=
  { State.reset with
    cfg := s.cfg
    outcome := s.outcome
    diag := s.diag
    pending := s.pending }

/-! ## Load -/

/-- The cells of an image placed at address `a` on (R161). -/
def imageCells (a : Nat) : List Byte → List Host.Cell
  | [] => []
  | b :: bs => (a, b) :: imageCells (a + 1) bs

/-- Copy an image that fits to LOAD_ADDR and start the machine (R161). -/
def placeImage (image : List Byte) (s : State) : State :=
  ((s.writeMem (imageCells loadAddr image)).setMode .running).report (.loaded image.length)

/-- Load(image) (R161, R162): refused outside mode Reset; an image longer than MAX_IMAGE is cut or
rejected by LOAD_OVERSIZE. -/
def load (image : List Byte) (s : State) : State :=
  match s.mode with
  | .reset =>
    if image.length > maxImage then
      match s.cfg.loadOversize with
      | .truncate => placeImage (image.take maxImage) { s with loadTruncated := true }
      | .reject => s.report .loadRejected
    else placeImage image s
  | .running => s.report .loadRefused
  | .awaitingKey _ => s.report .loadRefused
  | .halted => s.report .loadRefused

/-! ## One transaction, and the word for the next fetch -/

/-- One transaction of the host (R39, R79). -/
def transact (t : Transaction) (s : State) : Answer :=
  match t with
  | .reset => .next (resetTransaction s)
  | .load image => .next (load image s)
  | .cycle keys rnd => cycle keys rnd s
  | .tick => .next (tick s)

/-- The next transaction of the host, if there is one. The block never starts one by itself, so with
none to come the state stays (R77; log 1). -/
def runPending (s : State) : Answer :=
  match s.pending with
  | [] => .next s
  | t :: rest => transact t (s.setPending rest)

/-- The word `w` stored where the next fetch reads, high byte first (R52), the machine Running and a
Cycle next, whose inputs are what the ports of `s` hold (log 12). -/
def placeFetchWord (w : Word) (s : State) : State :=
  let started := { s with mode := .running, pending := .cycle s.keys s.rnd :: s.pending }
  match resolve s.cfg s.pc.toNat, resolve s.cfg (s.pc.toNat + 1) with
  | .ok a, .ok b => started.writeMem [(a, highByte w), (b, lowByte w)]
  | _, _ => started

end Sys2Proof.Machine
end

