-- ==== Sys2Proof/Machine/Step.lean ====
section
/-! DEFINITION. One step: the host's next transaction (R39, R79); and a word placed for the next
fetch. -/

namespace Sys2Proof.Machine

/-- One step is one transaction of the host, the first of `pending` (R76, R77, R79). -/
def step (s : State) : Host.Outcome State Fault Refusal := runPending s

/-- `s` with a 16-bit instruction, bits at and above `nbits` zero, stored where `step` fetches next, the
machine Running and a Cycle as the next transaction (log 12). -/
def State.withFetchWord (s : State) (nbits w : Nat) : State :=
  placeFetchWord (BitVec.ofNat 16 (w % 2 ^ nbits)) s

end Sys2Proof.Machine
end

