-- ==== Sys2Proof/Safety.lean ====
section
/-! DEFINITION. The terms claims are stated in: what a safe run is, what an instruction leaves unchanged,
the invariants, and what a sprite covers. -/

namespace Sys2Proof.Machine

/-! ## Safe runs -/

/-- No fault has been taken (R35, R139). -/
def Safe (s : State) : Prop := s.mode ≠ .halted

/-! ## What is unchanged -/

/-- Every general register outside `xs` is as before. -/
def RegsSameBut (xs : List Nibble) (s t : State) : Prop :=
  ∀ r : Nibble, r ∉ xs → t.readReg r = s.readReg r

/-- Every byte of memory reads as before. -/
def MemSame (s t : State) : Prop := ∀ a : Nat, t.readMem a = s.readMem a

/-- The call stack and its depth are as before. -/
def StackSame (s t : State) : Prop := t.stack = s.stack ∧ t.sp = s.sp

/-- Both timers are as before. -/
def TimersSame (s t : State) : Prop := t.dt = s.dt ∧ t.st = s.st

/-- Every display cell is as before. -/
def FbSame (s t : State) : Prop := ∀ x y : Nat, t.pixel x y = s.pixel x y

/-- mode, the fault record and load_truncated are as before. -/
def EngineSame (s t : State) : Prop :=
  t.mode = s.mode ∧ t.fault = s.fault ∧ t.loadTruncated = s.loadTruncated

/-- The configuration, the host's remaining transactions, the input ports and the diagnostic are as
before. -/
def PortsSame (s t : State) : Prop :=
  t.cfg = s.cfg ∧ t.pending = s.pending ∧ t.keys = s.keys ∧ t.rnd = s.rnd ∧ t.diag = s.diag

/-- The call stack, the timers, the engine's mode and records, and the ports are as before: what every
completing instruction but its own writers leaves alone. -/
def RestSame (s t : State) : Prop :=
  StackSame s t ∧ TimersSame s t ∧ EngineSame s t ∧ PortsSame s t

/-- Everything but the general registers in `xs`, pc and the outcome is as before. -/
def RegFrame (xs : List Nibble) (s t : State) : Prop :=
  RegsSameBut xs s t ∧ t.i = s.i ∧ FbSame s t ∧ MemSame s t ∧ RestSame s t

/-- A register instruction completed: only the registers in `xs` may differ, pc is the a + 2 of the
fetch (R81), the outcome is Executed (R83). -/
def CompletedInRegs (xs : List Nibble) (s t : State) : Prop :=
  RegFrame xs s t ∧ t.pc = s.pc ∧ t.outcome = some .executed

/-- A memory-storing instruction completed: no register, I, cell of the display or other state differs,
pc is the a + 2 of the fetch; memory is spoken of apart. -/
def CompletedInMemory (s t : State) : Prop :=
  RegsSameBut [] s t ∧ t.i = s.i ∧ FbSame s t ∧ RestSame s t ∧ t.pc = s.pc ∧
    t.outcome = some .executed

/-- Everything R43 lists is as before, pc included; the ports, the outcome and the diagnostic are not
spoken of. -/
def ArchSame (s t : State) : Prop :=
  t.v = s.v ∧ t.i = s.i ∧ t.pc = s.pc ∧ t.stack = s.stack ∧ t.sp = s.sp ∧ t.dt = s.dt ∧
    t.st = s.st ∧ t.fb = s.fb ∧ t.mem = s.mem ∧ t.mode = s.mode ∧ t.fault = s.fault ∧
    t.loadTruncated = s.loadTruncated ∧ t.cfg = s.cfg

/-- The same but for pc, mode and the fault record, which fault entry writes (R139). -/
def SameButFault (s t : State) : Prop :=
  t.v = s.v ∧ t.i = s.i ∧ t.stack = s.stack ∧ t.sp = s.sp ∧ t.dt = s.dt ∧ t.st = s.st ∧
    t.fb = s.fb ∧ t.mem = s.mem ∧ t.loadTruncated = s.loadTruncated ∧ t.cfg = s.cfg

/-! ## Addresses -/

/-- Every one of I, I + 1, …, I + n - 1 resolves (R49). -/
def Reaches (s : State) (n : Nat) : Prop :=
  ∀ k < n, ∃ a, resolve s.cfg (s.i.toNat + k) = .ok a

/-- I + k is the first of the addresses of an instruction that does not resolve (R50). -/
def FirstOutOfRange (s : State) (n k : Nat) : Prop :=
  s.cfg.addrMode = .fault ∧ k < n ∧ memSize ≤ s.i.toNat + k ∧ ∀ j < k, s.i.toNat + j < memSize

/-- MemRead(I + k, 1) where I + k resolves (R18). -/
def State.byteAtIndex (s : State) (k : Nat) : Byte :=
  match resolve s.cfg (s.i.toNat + k) with
  | .ok a => s.readMem a
  | .error _ => 0#8

/-- What storing `val 0`, `val 1`, …, `val (n - 1)` at I, I + 1, …, I + n - 1 in this order leaves
(R49 to R51): an address none of these resolves to reads as before; an address that I + k resolves to, and
no later I + j does, holds `val k`. -/
def StoresAtIndex (s t : State) (n : Nat) (val : Nat → Byte) : Prop :=
  (∀ a : Nat, (∀ k < n, resolve s.cfg (s.i.toNat + k) ≠ .ok a) → t.readMem a = s.readMem a) ∧
    ∀ k < n, ∀ a : Nat, resolve s.cfg (s.i.toNat + k) = .ok a →
      (∀ j < n, k < j → resolve s.cfg (s.i.toNat + j) ≠ .ok a) → t.readMem a = val k

/-! ## Fault entry -/

/-- `t` is `s` after fault entry with this record: nothing else changed but mode, pc and the outcome
(R139). -/
def Faulted (r : FaultRecord) (s t : State) : Prop :=
  SameButFault s t ∧ t.pc = r.pc ∧ t.mode = .halted ∧ t.fault = some r ∧
    t.outcome = some (.faulted r) ∧ PortsSame s t

/-! ## Sprites -/

/-- Some set bit of the sprite `rows`, drawn from column x0 and row y0, falls on the visible cell in
column c and row r (R124 to R126). -/
def spriteCovers (x0 y0 : Nat) (rows : List Byte) (c r : Nat) : Bool :=
  decide (c < displayWidth ∧ r < displayHeight ∧ x0 ≤ c ∧ c < x0 + 8 ∧ y0 ≤ r)
    && (match rows[r - y0]? with
        | some b => spriteBit b (c - x0)
        | none => false)

/-- The rows of the sprite at I (R124). -/
def State.spriteRows (s : State) (n : Nat) : List Byte := (List.range n).map s.byteAtIndex

/-! ## Invariants -/

/-- Memory keeps its canonical form: addresses strictly rising and inside the address space. -/
def MemoryCanonical (s : State) : Prop := Memory.wf s.cfg s.mem = true

/-- The machine is Halted exactly when a fault record is held, and pc is then the failing
instruction's address (R35, R36, R139). -/
def HaltedMatchesRecord (s : State) : Prop :=
  (s.mode = .halted ↔ s.fault ≠ none) ∧ ∀ r, s.fault = some r → s.pc = r.pc

/-- No Cycle's inputs are stored: both input ports are idle (R40; log 2). -/
def InputsIdle (s : State) : Prop := s.keys = 0#16 ∧ s.rnd = 0#8

/-- Which instruction raises a fault code (R138, "raised by"). -/
def raisedBy : FaultCode → Instr → Bool
  | .stackOverflow, .call _ => true
  | .stackUnderflow, .ret => true
  | .addressOutOfRange, .drw _ _ _ => true
  | .addressOutOfRange, .ldBcd _ => true
  | .addressOutOfRange, .storeRegs _ => true
  | .addressOutOfRange, .loadRegs _ => true
  | .keyIndexOutOfRange, .skp _ => true
  | .keyIndexOutOfRange, .sknp _ => true
  | _, _ => false

/-- The info of a record fits its code and the configuration (R138). -/
def infoFits (c : Config) (r : FaultRecord) : Prop :=
  match r.code with
  | .stackOverflow => r.addr = 0#17
  | .stackUnderflow => r.addr = 0#17
  | .addressOutOfRange => memSize ≤ r.addr.toNat ∧ c.addrMode = .fault
  | .misalignedFetch => r.addr.toNat = r.pc.toNat ∧ r.pc.toNat % 2 = 1 ∧ c.pcAlign = .strict
  | .keyIndexOutOfRange => 15 < r.addr.toNat ∧ r.addr.toNat < 256 ∧ c.keyIndexMode = .fault

/-- A record tells the truth (R36, R138): with a valid opcode it names a word whose instruction raises
that code; without one the opcode is 0 and the fault is one of the fetch. -/
def RecordTruthful (c : Config) (r : FaultRecord) : Prop :=
  infoFits c r ∧
    (r.opcodeValid = true → ∃ i, decodeWord r.opcode = .ok i ∧ raisedBy r.code i = true) ∧
    (r.opcodeValid = false →
      r.opcode = 0#16 ∧ (r.code = .misalignedFetch ∨ r.code = .addressOutOfRange))

/-- The fault record held, if any, tells the truth. -/
def FaultTruthful (s : State) : Prop := ∀ r, s.fault = some r → RecordTruthful s.cfg r

end Sys2Proof.Machine
end

