-- ==== Sys2Proof/Certificates/Slice0/Obligations.lean ====
section
/-! DEFINITION. The statements for the provers. Those about an instruction speak of `exec` in a state whose
pc is already a + 2 (R81), a being the instruction's address, so "pc as before" is a + 2;
`StepRunsDecodedInstruction` carries them to a step. -/

open Sys2Proof Sys2Proof.Machine

/-! ## Encoding -/

/-- A few words of R69, written out from its patterns. -/
def Obligations.SampleWordsDecode : Prop :=
  decodeWord 0x00E0#16 = .ok .cls ∧
  decodeWord 0x2210#16 = .ok (.call 0x210#12) ∧
  decodeWord 0x6A9D#16 = .ok (.ldImm 0xA#4 0x9D#8) ∧
  decodeWord 0x8126#16 = .ok (.shrReg 0x1#4 0x2#4) ∧
  decodeWord 0xD125#16 = .ok (.drw 0x1#4 0x2#4 0x5#4) ∧
  decodeWord 0xE59E#16 = .ok (.skp 0x5#4) ∧
  decodeWord 0xF265#16 = .ok (.loadRegs 0x2#4) ∧
  decodeWord 0x8008#16 = .error (.unmatched 0x8008#16)

/-- Every instruction, with every operand, is read back from its own bytes, and what follows is left. -/
def Obligations.DecodeOfEncodeIsIdentity : Prop :=
  ∀ (i : Instr) (rest : List Byte), decodeBytes (encodeBytes i ++ rest) = .ok (i, rest)

/-- No bit of a decoded word is lost: the instruction encodes to the word it was read from. -/
def Obligations.EncodeOfDecodeIsTheWord : Prop :=
  ∀ (w : Word) (i : Instr), decodeWord w = .ok i → encode i = w

/-- A decoded instruction's row is the one row of the map that selects the word; a word that is not
decoded is selected by none (R69, R82). -/
def Obligations.DecodeSelectsTheUniqueRow : Prop :=
  ∀ w : Word,
    (∀ i, decodeWord w = .ok i →
      i.row ∈ opcodeMap ∧ i.row.selects w = true ∧
        ∀ r ∈ opcodeMap, r.selects w = true → r = i.row) ∧
    (∀ e, decodeWord w = .error e →
      e = .unmatched w ∧ ∀ r ∈ opcodeMap, r.selects w = false)

/-- The unmatched words, family by family (R70, R72, R73). -/
def Obligations.UnmatchedWordsByFamily : Prop :=
  ∀ w : Word, decodeWord w = .error (.unmatched w) ↔
    (fieldF w = 0x0#4 ∧ fieldNNN w ≠ 0x0E0#12 ∧ fieldNNN w ≠ 0x0EE#12) ∨
    (fieldF w = 0x8#4 ∧ 0x8 ≤ (fieldN w).toNat ∧ fieldN w ≠ 0xE#4) ∨
    (fieldF w = 0xE#4 ∧ fieldNN w ≠ 0x9E#8 ∧ fieldNN w ≠ 0xA1#8) ∨
    (fieldF w = 0xF#4 ∧
      fieldNN w ∉ [0x07#8, 0x0A#8, 0x15#8, 0x18#8, 0x1E#8, 0x29#8, 0x33#8, 0x55#8, 0x65#8])

/-! ## Transactions -/

/-- R80, R81: in mode Running, with an aligned pc (or PC_ALIGN = Relaxed) whose two addresses resolve and
whose bytes, the first the high one, decode to `i`, a Cycle is `exec i` with pc = a + 2, the Cycle's inputs
on the ports and no diagnostic yet; `finishCycle` takes the inputs off the ports of the state it answers
(R40; log 2). -/
def Obligations.StepRunsDecodedInstruction : Prop :=
  ∀ (s : State) (keys : BitVec 16) (rnd : Byte) (rest : List Transaction) (a b : Nat) (i : Instr),
    s.pending = .cycle keys rnd :: rest → s.mode = .running →
    (s.cfg.pcAlign = .strict → s.pc.toNat % 2 = 0) →
    resolve s.cfg s.pc.toNat = .ok a → resolve s.cfg (s.pc.toNat + 1) = .ok b →
    decodeWord (s.readMem a ++ s.readMem b) = .ok i →
    step s = finishCycle (exec i
      { s with pending := rest, keys := keys, rnd := rnd, diag := none, pc := s.pc + 2#16 })

/-- R145: an unmatched word advances pc by 2 and reports a diagnostic; nothing else changes, and the
Cycle's inputs are not kept: that the idle input ports hold 0 is the model's choice (log 2). -/
def Obligations.UnmatchedWordOnlyReports : Prop :=
  ∀ (s : State) (keys : BitVec 16) (rnd : Byte) (rest : List Transaction) (a b : Nat) (w : Word),
    s.pending = .cycle keys rnd :: rest → s.mode = .running →
    (s.cfg.pcAlign = .strict → s.pc.toNat % 2 = 0) →
    resolve s.cfg s.pc.toNat = .ok a → resolve s.cfg (s.pc.toNat + 1) = .ok b →
    s.readMem a ++ s.readMem b = w → decodeWord w = .error (.unmatched w) →
    step s = .next
      { s with
        pending := rest, keys := 0#16, rnd := 0#8, pc := s.pc + 2#16
        diag := some ⟨w, s.pc⟩, outcome := some (.unknown w s.pc) }

/-- R53: under PC_ALIGN = Strict a fetch at an odd pc faults before either byte is read, whatever the
address; the record holds no opcode. That the idle input ports hold 0 after it is the model's choice
(log 2). -/
def Obligations.OddFetchFaultsFirst : Prop :=
  ∀ (s : State) (keys : BitVec 16) (rnd : Byte) (rest : List Transaction),
    s.pending = .cycle keys rnd :: rest → s.mode = .running →
    s.cfg.pcAlign = .strict → s.pc.toNat % 2 = 1 →
    ∃ t, step s = .next t ∧
      Faulted ⟨.misalignedFetch, s.pc, 0#16, false, s.pc.setWidth 17⟩
        { s with pending := rest, keys := 0#16, rnd := 0#8, diag := none } t

/-- R142 (2): a fetch that is not misaligned and reaches address 4096 or above under ADDR_MODE = Fault
faults on pc if pc itself is out of range, else on pc + 1. That the idle input ports hold 0 after it is the
model's choice (log 2). -/
def Obligations.FetchOutOfRangeFaults : Prop :=
  ∀ (s : State) (keys : BitVec 16) (rnd : Byte) (rest : List Transaction),
    s.pending = .cycle keys rnd :: rest → s.mode = .running →
    (s.cfg.pcAlign = .strict → s.pc.toNat % 2 = 0) →
    s.cfg.addrMode = .fault → 4095 ≤ s.pc.toNat →
    ∃ t, step s = .next t ∧
      Faulted ⟨.addressOutOfRange, s.pc, 0#16, false,
          BitVec.ofNat 17 (if 4096 ≤ s.pc.toNat then s.pc.toNat else s.pc.toNat + 1)⟩
        { s with pending := rest, keys := 0#16, rnd := 0#8, diag := none } t

/-- R78, R86: a Cycle in mode Reset or Halted changes nothing and reports so; the fault record stays, the
Cycle's inputs do not: that the idle input ports hold 0 is the model's choice (log 2). -/
def Obligations.CycleOutsideRunningDoesNothing : Prop :=
  ∀ (s : State) (keys : BitVec 16) (rnd : Byte) (rest : List Transaction),
    s.pending = .cycle keys rnd :: rest →
    (s.mode = .reset → ∃ t, step s = .next t ∧ ArchSame s t ∧ t.pending = rest ∧
      t.outcome = some .notStarted ∧ InputsIdle t) ∧
    (s.mode = .halted → ∃ t, step s = .next t ∧ ArchSame s t ∧ t.pending = rest ∧
      t.outcome = some .halted ∧ InputsIdle t)

/-- R133: a Cycle in mode AwaitingKey(x) fetches nothing; with no key pressed nothing changes; else V[x]
takes the lowest pressed key and the engine runs again, pc unchanged. The Cycle's inputs are not
kept: that the idle input ports hold 0 is the model's choice (log 2). -/
def Obligations.KeyWaitPoll : Prop :=
  ∀ (s : State) (keys : BitVec 16) (rnd : Byte) (rest : List Transaction) (x : Nibble),
    s.pending = .cycle keys rnd :: rest → s.mode = .awaitingKey x →
    (keys = 0#16 → ∃ t, step s = .next t ∧ ArchSame s t ∧ t.pending = rest ∧
      t.outcome = some .waiting ∧ InputsIdle t) ∧
    (∀ k : Nibble, keys.getLsbD k.toNat = true → (∀ j < k.toNat, keys.getLsbD j = false) →
      ∃ t, step s = .next t ∧ t.readReg x = k.setWidth 8 ∧ RegsSameBut [x] s t ∧ t.pc = s.pc ∧
        t.i = s.i ∧ StackSame s t ∧ TimersSame s t ∧ FbSame s t ∧ MemSame s t ∧
        t.mode = .running ∧ t.fault = s.fault ∧ t.loadTruncated = s.loadTruncated ∧
        t.cfg = s.cfg ∧ t.pending = rest ∧ t.outcome = some (.keyLatched x k) ∧ InputsIdle t)

/-- R148, R149: in every mode Tick decrements each counter that is above 0, and changes nothing else. -/
def Obligations.TickCountsDownInEveryMode : Prop :=
  ∀ (s : State) (rest : List Transaction), s.pending = .tick :: rest →
    ∃ t, step s = .next t ∧ t.dt.toNat = s.dt.toNat - 1 ∧ t.st.toNat = s.st.toNat - 1 ∧
      t = { s with pending := rest, dt := t.dt, st := t.st }

/-- `n` Ticks in a row leave DT at its value minus `n`, never below 0 (R148; the source's property S9). -/
def Obligations.TicksRunTimersDownToZero : Prop :=
  ∀ (n : Nat) (s : State), s.pending = List.replicate n .tick →
    ∃ t, core.run n s = .next t ∧ t.dt.toNat = s.dt.toNat - n ∧ t.st.toNat = s.st.toNat - n ∧
      t = { s with pending := [], dt := t.dt, st := t.st }

/-- R157: Reset, accepted in every mode. -/
def Obligations.ResetTransactionSetsResetValues : Prop :=
  ∀ (s : State) (rest : List Transaction), s.pending = .reset :: rest →
    ∃ t, step s = .next t ∧ (∀ x, t.readReg x = 0#8) ∧ t.i = 0#16 ∧ t.pc = 0x200#16 ∧
      (∀ k (h : k < 16), t.stack[k] = 0#16) ∧ t.sp.val = 0 ∧ t.dt = 0#8 ∧ t.st = 0#8 ∧
      (∀ x y, t.pixel x y = false) ∧
      (∀ j (h : j < 80), t.readMem (s.cfg.fontBase + j) = s.cfg.fontTable[j]) ∧
      (∀ a, a < s.cfg.fontBase ∨ s.cfg.fontBase + 80 ≤ a → t.readMem a = 0#8) ∧
      t.mode = .reset ∧ t.fault = none ∧ t.loadTruncated = false ∧ t.cfg = s.cfg ∧
      t.pending = rest

/-- R161: an image of at most 3584 bytes, in mode Reset, is copied to 0x200 and starts the machine. -/
def Obligations.LoadPlacesImageAndStarts : Prop :=
  ∀ (s : State) (image : List Byte) (rest : List Transaction),
    s.pending = .load image :: rest → s.mode = .reset → image.length ≤ 3584 → MemoryCanonical s →
    ∃ t, step s = .next t ∧
      (∀ j (h : j < image.length), t.readMem (0x200 + j) = image[j]) ∧
      (∀ a, a < 0x200 ∨ 0x200 + image.length ≤ a → t.readMem a = s.readMem a) ∧
      t = { s with
            pending := rest, mem := t.mem, mode := .running
            outcome := some (.loaded image.length) }

/-- R162: a longer image is cut to its first 3584 bytes with load_truncated set, or not loaded at all. -/
def Obligations.OversizeImageIsCutOrRejected : Prop :=
  ∀ (s : State) (image : List Byte) (rest : List Transaction),
    s.pending = .load image :: rest → s.mode = .reset → 3584 < image.length →
    (s.cfg.loadOversize = .truncate → MemoryCanonical s →
      ∃ t, step s = .next t ∧
        (∀ j (h : j < image.length), j < 3584 → t.readMem (0x200 + j) = image[j]) ∧
        (∀ a, a < 0x200 ∨ 0x1000 ≤ a → t.readMem a = s.readMem a) ∧
        t = { s with
              pending := rest, mem := t.mem, mode := .running, loadTruncated := true
              outcome := some (.loaded 3584) }) ∧
    (s.cfg.loadOversize = .reject →
      step s = .next { s with pending := rest, outcome := some .loadRejected })

/-- R161: Load outside mode Reset is refused and changes nothing. -/
def Obligations.LoadIsRefusedOnceStarted : Prop :=
  ∀ (s : State) (image : List Byte) (rest : List Transaction),
    s.pending = .load image :: rest → s.mode ≠ .reset →
    step s = .next { s with pending := rest, outcome := some .loadRefused }

/-- R139, R140, R85: a Cycle that faults changes nothing but the record, the mode and its own report; the
record names the instruction's address and, if it was fetched, its word, else 0. That the idle input ports
hold 0 after it is the model's choice (log 2). -/
def Obligations.FaultsArePrecise : Prop :=
  ∀ (s t : State) (keys : BitVec 16) (rnd : Byte) (rest : List Transaction),
    s.pending = .cycle keys rnd :: rest → s.mode = .running →
    step s = .next t → t.mode = .halted →
    ∃ r : FaultRecord,
      t = { s with
            pending := rest, keys := 0#16, rnd := 0#8, diag := none
            mode := .halted, fault := some r, outcome := some (.faulted r) } ∧
      r.pc = s.pc ∧ (r.opcodeValid = true ↔ ∃ w, fetch s = .ok w) ∧
      (∀ w, fetch s = .ok w → r.opcode = w) ∧ (r.opcodeValid = false → r.opcode = 0#16)

/-- R44: the state after reset. -/
def Obligations.ResetStateHoldsResetValues : Prop :=
  (∀ x, State.reset.readReg x = 0#8) ∧ State.reset.i = 0#16 ∧ State.reset.pc = 0x200#16 ∧
  (∀ k (h : k < 16), State.reset.stack[k] = 0#16) ∧ State.reset.sp.val = 0 ∧
  State.reset.dt = 0#8 ∧ State.reset.st = 0#8 ∧ (∀ x y, State.reset.pixel x y = false) ∧
  (∀ j (h : j < 80), State.reset.readMem (State.reset.cfg.fontBase + j)
    = State.reset.cfg.fontTable[j]) ∧
  (∀ a, a < State.reset.cfg.fontBase ∨ State.reset.cfg.fontBase + 80 ≤ a →
    State.reset.readMem a = 0#8) ∧
  State.reset.mode = .reset ∧ State.reset.fault = none ∧ State.reset.loadTruncated = false

/-! ## Register arithmetic and logic -/

/-- R102, R103. -/
def Obligations.LoadAndAddImmediate : Prop :=
  ∀ (x : Nibble) (nn : Byte) (s : State),
    decodeWord (0x6#4 ++ x ++ nn) = .ok (.ldImm x nn) ∧
    decodeWord (0x7#4 ++ x ++ nn) = .ok (.addImm x nn) ∧
    (∃ t, exec (.ldImm x nn) s = .next t ∧ t.readReg x = nn ∧ CompletedInRegs [x] s t) ∧
    (∃ t, exec (.addImm x nn) s = .next t ∧
      (t.readReg x).toNat = ((s.readReg x).toNat + nn.toNat) % 256 ∧ CompletedInRegs [x] s t)

/-- R104 to R107: bit by bit; VF is not written unless X = F. -/
def Obligations.CopyAndLogicOperations : Prop :=
  ∀ (x y : Nibble) (s : State),
    decodeWord (0x8#4 ++ x ++ y ++ 0x0#4) = .ok (.ldReg x y) ∧
    decodeWord (0x8#4 ++ x ++ y ++ 0x1#4) = .ok (.orReg x y) ∧
    decodeWord (0x8#4 ++ x ++ y ++ 0x2#4) = .ok (.andReg x y) ∧
    decodeWord (0x8#4 ++ x ++ y ++ 0x3#4) = .ok (.xorReg x y) ∧
    (∃ t, exec (.ldReg x y) s = .next t ∧ t.readReg x = s.readReg y ∧ CompletedInRegs [x] s t) ∧
    (∃ t, exec (.orReg x y) s = .next t ∧ CompletedInRegs [x] s t ∧
      ∀ k < 8, (t.readReg x).getLsbD k
        = ((s.readReg x).getLsbD k || (s.readReg y).getLsbD k)) ∧
    (∃ t, exec (.andReg x y) s = .next t ∧ CompletedInRegs [x] s t ∧
      ∀ k < 8, (t.readReg x).getLsbD k
        = ((s.readReg x).getLsbD k && (s.readReg y).getLsbD k)) ∧
    (∃ t, exec (.xorReg x y) s = .next t ∧ CompletedInRegs [x] s t ∧
      ∀ k < 8, (t.readReg x).getLsbD k
        = ((s.readReg x).getLsbD k ^^ (s.readReg y).getLsbD k))

/-- R108, with the write order of R101: VF is the carry even when X = F. -/
def Obligations.AddRegistersSetsCarry : Prop :=
  ∀ (x y : Nibble) (s : State),
    decodeWord (0x8#4 ++ x ++ y ++ 0x4#4) = .ok (.addReg x y) ∧
    ∃ t, exec (.addReg x y) s = .next t ∧
      (x ≠ 0xF#4 →
        (t.readReg x).toNat = ((s.readReg x).toNat + (s.readReg y).toNat) % 256) ∧
      t.readReg 0xF#4
        = (if (s.readReg x).toNat + (s.readReg y).toNat > 255 then 1#8 else 0#8) ∧
      CompletedInRegs [x, 0xF#4] s t

/-- R109, R112, with the write order of R101: VF is NOT borrow even when X = F. -/
def Obligations.SubtractRegistersSetsNoBorrow : Prop :=
  ∀ (x y : Nibble) (s : State),
    decodeWord (0x8#4 ++ x ++ y ++ 0x5#4) = .ok (.subReg x y) ∧
    decodeWord (0x8#4 ++ x ++ y ++ 0x7#4) = .ok (.subnReg x y) ∧
    (∃ t, exec (.subReg x y) s = .next t ∧
      (x ≠ 0xF#4 → ((t.readReg x).toNat : Int)
        = ((s.readReg x).toNat - (s.readReg y).toNat : Int) % 256) ∧
      t.readReg 0xF#4
        = (if (s.readReg x).toNat ≥ (s.readReg y).toNat then 1#8 else 0#8) ∧
      CompletedInRegs [x, 0xF#4] s t) ∧
    (∃ t, exec (.subnReg x y) s = .next t ∧
      (x ≠ 0xF#4 → ((t.readReg x).toNat : Int)
        = ((s.readReg y).toNat - (s.readReg x).toNat : Int) % 256) ∧
      t.readReg 0xF#4
        = (if (s.readReg y).toNat ≥ (s.readReg x).toNat then 1#8 else 0#8) ∧
      CompletedInRegs [x, 0xF#4] s t)

/-- R110, R111, for both values of SHIFT_SOURCE, with the write order of R101. -/
def Obligations.ShiftsTakeTheConfiguredSource : Prop :=
  ∀ (x y : Nibble) (s : State) (src : Byte),
    src = (if s.cfg.shiftSource = .vy then s.readReg y else s.readReg x) →
    decodeWord (0x8#4 ++ x ++ y ++ 0x6#4) = .ok (.shrReg x y) ∧
    decodeWord (0x8#4 ++ x ++ y ++ 0xE#4) = .ok (.shlReg x y) ∧
    (∃ t, exec (.shrReg x y) s = .next t ∧
      (x ≠ 0xF#4 → (t.readReg x).toNat = src.toNat / 2) ∧
      (t.readReg 0xF#4).toNat = src.toNat % 2 ∧ CompletedInRegs [x, 0xF#4] s t) ∧
    (∃ t, exec (.shlReg x y) s = .next t ∧
      (x ≠ 0xF#4 → (t.readReg x).toNat = (src.toNat * 2) % 256) ∧
      (t.readReg 0xF#4).toNat = src.toNat / 128 ∧ CompletedInRegs [x, 0xF#4] s t)

/-- R113: the Cycle's random byte AND NN, so every set bit of the result is one of NN's. -/
def Obligations.RandomByteIsMasked : Prop :=
  ∀ (x : Nibble) (nn : Byte) (s : State),
    decodeWord (0xC#4 ++ x ++ nn) = .ok (.rnd x nn) ∧
    ∃ t, exec (.rnd x nn) s = .next t ∧ CompletedInRegs [x] s t ∧
      ∀ k < 8, (t.readReg x).getLsbD k = (s.rnd.getLsbD k && nn.getLsbD k)

/-! ## Control transfer -/

/-- R91, R98: the target is written as it is, unchecked; BNNN always adds V0. -/
def Obligations.JumpsWriteTheirTarget : Prop :=
  ∀ (nnn : Addr12) (s : State),
    decodeWord (0x1#4 ++ nnn) = .ok (.jp nnn) ∧ decodeWord (0xB#4 ++ nnn) = .ok (.jpV0 nnn) ∧
    (∃ t, exec (.jp nnn) s = .next t ∧ t.pc.toNat = nnn.toNat ∧ RegFrame [] s t ∧
      t.outcome = some .executed) ∧
    (∃ t, exec (.jpV0 nnn) s = .next t ∧ t.pc.toNat = nnn.toNat + (s.readReg 0#4).toNat ∧
      RegFrame [] s t ∧ t.outcome = some .executed)

/-- R92: with room on the stack the return address a + 2 is pushed and pc is the target; with 16 entries
in use the call faults. -/
def Obligations.CallPushesReturnAddress : Prop :=
  ∀ (nnn : Addr12) (s : State),
    decodeWord (0x2#4 ++ nnn) = .ok (.call nnn) ∧
    (s.sp.val < 16 → ∃ t, exec (.call nnn) s = .next t ∧ t.pc.toNat = nnn.toNat ∧
      t.sp.val = s.sp.val + 1 ∧
      (∀ k (h : k < 16), t.stack[k] = if k = s.sp.val then s.pc else s.stack[k]) ∧
      RegsSameBut [] s t ∧ t.i = s.i ∧ TimersSame s t ∧ FbSame s t ∧ MemSame s t ∧
      EngineSame s t ∧ PortsSame s t ∧ t.outcome = some .executed) ∧
    (s.sp.val = 16 → ∃ t, exec (.call nnn) s = .next t ∧
      Faulted ⟨.stackOverflow, s.pc - 2#16, 0x2#4 ++ nnn, true, 0#17⟩ s t)

/-- R90: the newest entry is popped into pc and left stale in the store; an empty stack faults. -/
def Obligations.ReturnPopsIntoPc : Prop :=
  decodeWord 0x00EE#16 = .ok .ret ∧
  ∀ s : State,
    (∀ h : 0 < s.sp.val, ∃ t, exec .ret s = .next t ∧
      t.pc = s.stack[s.sp.val - 1]'(by have := s.sp.isLt; omega) ∧
      t.sp.val = s.sp.val - 1 ∧ t.stack = s.stack ∧
      RegsSameBut [] s t ∧ t.i = s.i ∧ TimersSame s t ∧ FbSame s t ∧ MemSame s t ∧
      EngineSame s t ∧ PortsSame s t ∧ t.outcome = some .executed) ∧
    (s.sp.val = 0 → ∃ t, exec .ret s = .next t ∧
      Faulted ⟨.stackUnderflow, s.pc - 2#16, 0x00EE#16, true, 0#17⟩ s t)

/-- A call and then a return come back to the return address with the depth as before and every entry in
use as before (R28, R90, R92; the source's property S3). -/
def Obligations.CallThenReturnComesBack : Prop :=
  ∀ (nnn : Addr12) (s : State), s.sp.val < 16 →
    ∃ t u, exec (.call nnn) s = .next t ∧ exec .ret t = .next u ∧ u.pc = s.pc ∧ u.sp = s.sp ∧
      (∀ k (h : k < 16), k < s.sp.val → u.stack[k] = s.stack[k]) ∧
      RegsSameBut [] s u ∧ u.i = s.i ∧ MemSame s u ∧ FbSame s u

/-- R94, R95. -/
def Obligations.SkipsOnImmediate : Prop :=
  ∀ (x : Nibble) (nn : Byte) (s : State),
    decodeWord (0x3#4 ++ x ++ nn) = .ok (.seImm x nn) ∧
    decodeWord (0x4#4 ++ x ++ nn) = .ok (.sneImm x nn) ∧
    (∃ t, exec (.seImm x nn) s = .next t ∧ RegFrame [] s t ∧ t.outcome = some .executed ∧
      t.pc = (if s.readReg x = nn then s.pc + 2#16 else s.pc)) ∧
    (∃ t, exec (.sneImm x nn) s = .next t ∧ RegFrame [] s t ∧ t.outcome = some .executed ∧
      t.pc = (if s.readReg x ≠ nn then s.pc + 2#16 else s.pc))

/-- R96, R97, for every N: the field N is ignored (R71). -/
def Obligations.SkipsOnRegisters : Prop :=
  ∀ (x y n : Nibble) (s : State),
    decodeWord (0x5#4 ++ x ++ y ++ n) = .ok (.seReg x y n) ∧
    decodeWord (0x9#4 ++ x ++ y ++ n) = .ok (.sneReg x y n) ∧
    (∃ t, exec (.seReg x y n) s = .next t ∧ RegFrame [] s t ∧ t.outcome = some .executed ∧
      t.pc = (if s.readReg x = s.readReg y then s.pc + 2#16 else s.pc)) ∧
    (∃ t, exec (.sneReg x y n) s = .next t ∧ RegFrame [] s t ∧ t.outcome = some .executed ∧
      t.pc = (if s.readReg x ≠ s.readReg y then s.pc + 2#16 else s.pc))

/-! ## Index register and memory -/

/-- R115 and R118: I takes NNN; I takes the font address of the whole byte VX. -/
def Obligations.IndexTakesAddressOrGlyph : Prop :=
  (∀ (nnn : Addr12) (s : State),
    decodeWord (0xA#4 ++ nnn) = .ok (.ldI nnn) ∧
    ∃ t, exec (.ldI nnn) s = .next t ∧ t.i.toNat = nnn.toNat ∧ RegsSameBut [] s t ∧
      FbSame s t ∧ MemSame s t ∧ RestSame s t ∧ t.pc = s.pc ∧ t.outcome = some .executed) ∧
  (∀ (x : Nibble) (s : State),
    decodeWord (0xF#4 ++ x ++ 0x29#8) = .ok (.ldFont x) ∧
    ∃ t, exec (.ldFont x) s = .next t ∧
      t.i.toNat = (s.cfg.fontBase
        + (s.readReg x).toNat * (if s.cfg.fontAddrMult = .five then 5 else 1)) % 65536 ∧
      RegsSameBut [] s t ∧ FbSame s t ∧ MemSame s t ∧ RestSame s t ∧ t.pc = s.pc ∧
      t.outcome = some .executed)

/-- R116: the flag is that of the untruncated sum, and is written last. -/
def Obligations.AddToIndexSetsOverflowFlag : Prop :=
  ∀ (x : Nibble) (s : State),
    decodeWord (0xF#4 ++ x ++ 0x1E#8) = .ok (.addI x) ∧
    ∃ t, exec (.addI x) s = .next t ∧
      t.i.toNat = (s.i.toNat + (s.readReg x).toNat) % 65536 ∧
      t.readReg 0xF#4
        = (if s.i.toNat + (s.readReg x).toNat > 0x0FFF then 1#8 else 0#8) ∧
      RegsSameBut [0xF#4] s t ∧ FbSame s t ∧ MemSame s t ∧ RestSame s t ∧ t.pc = s.pc ∧
      t.outcome = some .executed

/-- With the multiplier 5, a font below the program that nothing has overwritten, and VX at most 0xF, the
five bytes at the new I are those of glyph VX in the font table (R118, R159; the source's property S8). -/
def Obligations.FontAddressPointsAtGlyph : Prop :=
  ∀ (x : Nibble) (s : State), s.cfg.wellFormed = true → s.cfg.fontAddrMult = .five →
    (s.readReg x).toNat ≤ 15 →
    (∀ j (h : j < 80), s.readMem (s.cfg.fontBase + j) = s.cfg.fontTable[j]) →
    ∃ t, exec (.ldFont x) s = .next t ∧
      ∀ r (hr : r < 5) (h : 5 * (s.readReg x).toNat + r < 80),
        t.readMem (t.i.toNat + r) = s.cfg.fontTable[5 * (s.readReg x).toNat + r]

/-- R120: where all three addresses resolve, the three decimal digits are stored, hundreds first; else
the instruction faults on the first that does not (R50) and writes no byte. -/
def Obligations.DecimalStoreWritesDigits : Prop :=
  ∀ (x : Nibble) (s : State),
    decodeWord (0xF#4 ++ x ++ 0x33#8) = .ok (.ldBcd x) ∧
    (MemoryCanonical s → Reaches s 3 →
      ∃ t, exec (.ldBcd x) s = .next t ∧ CompletedInMemory s t ∧
        StoresAtIndex s t 3 (fun k =>
          BitVec.ofNat 8 (if k = 0 then (s.readReg x).toNat / 100
            else if k = 1 then (s.readReg x).toNat / 10 % 10 else (s.readReg x).toNat % 10))) ∧
    (∀ k, FirstOutOfRange s 3 k → ∃ t, exec (.ldBcd x) s = .next t ∧
      Faulted ⟨.addressOutOfRange, s.pc - 2#16, 0xF#4 ++ x ++ 0x33#8, true,
        BitVec.ofNat 17 (s.i.toNat + k)⟩ s t)

/-- The three digits stored rebuild the value (R120; the source's property S1). -/
def Obligations.DecimalDigitsRebuildTheValue : Prop :=
  ∀ (x : Nibble) (s : State), MemoryCanonical s → s.i.toNat + 2 < 4096 →
    ∃ t, exec (.ldBcd x) s = .next t ∧
      100 * (t.readMem s.i.toNat).toNat + 10 * (t.readMem (s.i.toNat + 1)).toNat
        + (t.readMem (s.i.toNat + 2)).toNat = (s.readReg x).toNat ∧
      (t.readMem s.i.toNat).toNat ≤ 2 ∧ (t.readMem (s.i.toNat + 1)).toNat ≤ 9 ∧
      (t.readMem (s.i.toNat + 2)).toNat ≤ 9

/-- R121: where all the addresses resolve, V0..VX are stored from I on; I is unchanged; else the
instruction faults on the first that does not (R50) and writes no byte. -/
def Obligations.StoreRegistersWritesRange : Prop :=
  ∀ (x : Nibble) (s : State),
    decodeWord (0xF#4 ++ x ++ 0x55#8) = .ok (.storeRegs x) ∧
    (MemoryCanonical s → Reaches s (x.toNat + 1) →
      ∃ t, exec (.storeRegs x) s = .next t ∧ CompletedInMemory s t ∧
        StoresAtIndex s t (x.toNat + 1) (fun k => s.readReg (BitVec.ofNat 4 k))) ∧
    (∀ k, FirstOutOfRange s (x.toNat + 1) k → ∃ t, exec (.storeRegs x) s = .next t ∧
      Faulted ⟨.addressOutOfRange, s.pc - 2#16, 0xF#4 ++ x ++ 0x55#8, true,
        BitVec.ofNat 17 (s.i.toNat + k)⟩ s t)

/-- R122: where all the addresses resolve, V0..VX are loaded from I on; I is unchanged; else the
instruction faults on the first that does not (R50) and writes no register. -/
def Obligations.LoadRegistersReadsRange : Prop :=
  ∀ (x : Nibble) (s : State),
    decodeWord (0xF#4 ++ x ++ 0x65#8) = .ok (.loadRegs x) ∧
    (Reaches s (x.toNat + 1) →
      ∃ t, exec (.loadRegs x) s = .next t ∧
        (∀ k : Nibble, t.readReg k
          = if k.toNat ≤ x.toNat then s.byteAtIndex k.toNat else s.readReg k) ∧
        t.i = s.i ∧ FbSame s t ∧ MemSame s t ∧ RestSame s t ∧ t.pc = s.pc ∧
        t.outcome = some .executed) ∧
    (∀ k, FirstOutOfRange s (x.toNat + 1) k → ∃ t, exec (.loadRegs x) s = .next t ∧
      Faulted ⟨.addressOutOfRange, s.pc - 2#16, 0xF#4 ++ x ++ 0x65#8, true,
        BitVec.ofNat 17 (s.i.toNat + k)⟩ s t)

/-- FX65 right after FX55 to the same place inside memory reads the registers just stored back, whatever
happened to the registers in between (R56, R121, R122). -/
def Obligations.StoredRegistersLoadBack : Prop :=
  ∀ (x : Nibble) (s t u : State), MemoryCanonical s → s.i.toNat + x.toNat < 4096 →
    exec (.storeRegs x) s = .next t → u.mem = t.mem → u.cfg = t.cfg → u.i = t.i →
    ∃ w, exec (.loadRegs x) u = .next w ∧
      ∀ k : Nibble, k.toNat ≤ x.toNat → w.readReg k = s.readReg k

/-- R49: what an effective address resolves to. -/
def Obligations.ResolveFollowsAddrMode : Prop :=
  ∀ (c : Config) (ea : Nat),
    (ea < 4096 → resolve c ea = .ok ea) ∧
    (4096 ≤ ea → c.addrMode = .fault →
      resolve c ea = .error ⟨.addressOutOfRange, BitVec.ofNat 17 ea⟩) ∧
    (4096 ≤ ea → c.addrMode = .wrap → resolve c ea = .ok (ea % 4096)) ∧
    (4096 ≤ ea → c.addrMode = .clamp → resolve c ea = .ok 4095)

/-- Two canonical memories that read alike at every address are the same data (the model's own form of
memory, log 6). -/
def Obligations.CanonicalMemoriesAreEqual : Prop :=
  ∀ (c : Config) (m₁ m₂ : Memory), Memory.wf c m₁ = true → Memory.wf c m₂ = true →
    (∀ a, Memory.read c m₁ a = Memory.read c m₂ a) → m₁ = m₂

/-- A word stored at the two addresses pc and pc + 1 inside memory is what the next fetch reads: no
barrier, no delay (R59). -/
def Obligations.FetchSeesStoredWord : Prop :=
  ∀ (s : State) (w : Word), MemoryCanonical s →
    (s.cfg.pcAlign = .strict → s.pc.toNat % 2 = 0) → s.pc.toNat + 1 < 4096 →
    fetch (s.writeMem [(s.pc.toNat, w.extractLsb' 8 8), (s.pc.toNat + 1, w.extractLsb' 0 8)]) = .ok w

/-! ## Display -/

/-- R123. -/
def Obligations.ClearDisplayClearsEveryCell : Prop :=
  decodeWord 0x00E0#16 = .ok .cls ∧
  ∀ s : State, ∃ t, exec .cls s = .next t ∧ (∀ x y, t.pixel x y = false) ∧
    RegsSameBut [] s t ∧ t.i = s.i ∧ MemSame s t ∧ RestSame s t ∧ t.pc = s.pc ∧
    t.outcome = some .executed

/-- R125 to R128: where the row addresses resolve, exactly the visible cells under a set sprite bit are
flipped, from the start (VX mod 64, VY mod 32), with no wraparound; VF is 1 exactly when such a cell was
true. Else the instruction faults on the first address that does not resolve (R50), drawing nothing. -/
def Obligations.DrawXorsVisibleCells : Prop :=
  ∀ (x y n : Nibble) (s : State),
    decodeWord (0xD#4 ++ x ++ y ++ n) = .ok (.drw x y n) ∧
    (Reaches s n.toNat →
      ∃ t, exec (.drw x y n) s = .next t ∧
        (∀ c r, t.pixel c r = (s.pixel c r ^^ spriteCovers ((s.readReg x).toNat % 64)
          ((s.readReg y).toNat % 32) (s.spriteRows n.toNat) c r)) ∧
        (t.readReg 0xF#4 = 1#8 ↔ ∃ c r, s.pixel c r = true ∧
          spriteCovers ((s.readReg x).toNat % 64) ((s.readReg y).toNat % 32)
            (s.spriteRows n.toNat) c r = true) ∧
        (t.readReg 0xF#4 = 0#8 ∨ t.readReg 0xF#4 = 1#8) ∧
        RegsSameBut [0xF#4] s t ∧ t.i = s.i ∧ MemSame s t ∧ RestSame s t ∧ t.pc = s.pc ∧
        t.outcome = some .executed) ∧
    (∀ k, FirstOutOfRange s n.toNat k → ∃ t, exec (.drw x y n) s = .next t ∧
      Faulted ⟨.addressOutOfRange, s.pc - 2#16, 0xD#4 ++ x ++ y ++ n, true,
        BitVec.ofNat 17 (s.i.toNat + k)⟩ s t)

/-- Drawing the same sprite again at the same place, from coordinates not in VF, restores every cell, and
raises VF if the first draw flipped a cell to true (R125, R127; the source's property S6). -/
def Obligations.DrawingTwiceRestoresDisplay : Prop :=
  ∀ (x y n : Nibble) (s t u : State), x ≠ 0xF#4 → y ≠ 0xF#4 → Reaches s n.toNat →
    exec (.drw x y n) s = .next t → exec (.drw x y n) t = .next u →
    (∀ c r, u.pixel c r = s.pixel c r) ∧
    (u.readReg 0xF#4 = 1#8 ↔ ∃ c r, s.pixel c r = false ∧ t.pixel c r = true)

/-- R128: DXY0 reads no memory, so it completes whatever I is, draws nothing and clears VF. -/
def Obligations.DrawOfNoRows : Prop :=
  ∀ (x y : Nibble) (s : State),
    ∃ t, exec (.drw x y 0#4) s = .next t ∧ FbSame s t ∧ t.readReg 0xF#4 = 0#8 ∧
      CompletedInRegs [0xF#4] s t

/-! ## Keys and timers -/

/-- R129 to R131: EX9E and EXA1 skip on the key the index names; an index above 0xF faults or is cut to
its low nibble by KEY_INDEX_MODE. The record's address is VX, as R129, R138 and R139 say; R36 says 0 for
this code, and the choice between them is the model's (log 11). -/
def Obligations.KeySkipsTestTheNamedKey : Prop :=
  ∀ (x : Nibble) (s : State),
    decodeWord (0xE#4 ++ x ++ 0x9E#8) = .ok (.skp x) ∧
    decodeWord (0xE#4 ++ x ++ 0xA1#8) = .ok (.sknp x) ∧
    ((s.readReg x).toNat ≤ 15 ∨ s.cfg.keyIndexMode = .lowNibble →
      (∃ t, exec (.skp x) s = .next t ∧ RegFrame [] s t ∧ t.outcome = some .executed ∧
        t.pc = (if s.keys.getLsbD ((s.readReg x).toNat % 16) = true then s.pc + 2#16
          else s.pc)) ∧
      (∃ t, exec (.sknp x) s = .next t ∧ RegFrame [] s t ∧ t.outcome = some .executed ∧
        t.pc = (if s.keys.getLsbD ((s.readReg x).toNat % 16) = false then s.pc + 2#16
          else s.pc))) ∧
    (15 < (s.readReg x).toNat → s.cfg.keyIndexMode = .fault →
      (∃ t, exec (.skp x) s = .next t ∧
        Faulted ⟨.keyIndexOutOfRange, s.pc - 2#16, 0xE#4 ++ x ++ 0x9E#8, true,
          (s.readReg x).setWidth 17⟩ s t) ∧
      (∃ t, exec (.sknp x) s = .next t ∧
        Faulted ⟨.keyIndexOutOfRange, s.pc - 2#16, 0xE#4 ++ x ++ 0xA1#8, true,
          (s.readReg x).setWidth 17⟩ s t))

/-- R132: FX0A takes the lowest pressed key at once, or waits in AwaitingKey(X); pc stays at a + 2. -/
def Obligations.KeyWaitInstruction : Prop :=
  ∀ (x : Nibble) (s : State),
    decodeWord (0xF#4 ++ x ++ 0x0A#8) = .ok (.ldVxKey x) ∧
    (∀ k : Nibble, s.keys.getLsbD k.toNat = true → (∀ j < k.toNat, s.keys.getLsbD j = false) →
      ∃ t, exec (.ldVxKey x) s = .next t ∧ t.readReg x = k.setWidth 8 ∧ RegFrame [x] s t ∧
        t.pc = s.pc ∧ t.outcome = some (.keyLatched x k)) ∧
    (s.keys = 0#16 → ∃ t, exec (.ldVxKey x) s = .next t ∧ t.mode = .awaitingKey x ∧
      RegsSameBut [] s t ∧ t.i = s.i ∧ StackSame s t ∧ TimersSame s t ∧ FbSame s t ∧
      MemSame s t ∧ t.fault = s.fault ∧ t.loadTruncated = s.loadTruncated ∧ PortsSame s t ∧
      t.pc = s.pc ∧ t.outcome = some (.enteredWait x))

/-- R134 to R136: the timers through VX; sound_active follows ST at once (R152). -/
def Obligations.TimerInstructions : Prop :=
  ∀ (x : Nibble) (s : State),
    decodeWord (0xF#4 ++ x ++ 0x07#8) = .ok (.ldVxDt x) ∧
    decodeWord (0xF#4 ++ x ++ 0x15#8) = .ok (.ldDtVx x) ∧
    decodeWord (0xF#4 ++ x ++ 0x18#8) = .ok (.ldStVx x) ∧
    (∃ t, exec (.ldVxDt x) s = .next t ∧ t.readReg x = s.dt ∧ CompletedInRegs [x] s t) ∧
    (∃ t, exec (.ldDtVx x) s = .next t ∧ t.dt = s.readReg x ∧ t.st = s.st ∧
      RegsSameBut [] s t ∧ t.i = s.i ∧ StackSame s t ∧ FbSame s t ∧ MemSame s t ∧
      EngineSame s t ∧ PortsSame s t ∧ t.pc = s.pc ∧ t.outcome = some .executed) ∧
    (∃ t, exec (.ldStVx x) s = .next t ∧ t.st = s.readReg x ∧ t.dt = s.dt ∧
      (t.soundActive = true ↔ 0 < (s.readReg x).toNat) ∧
      RegsSameBut [] s t ∧ t.i = s.i ∧ StackSame s t ∧ FbSame s t ∧ MemSame s t ∧
      EngineSame s t ∧ PortsSame s t ∧ t.pc = s.pc ∧ t.outcome = some .executed)

/-! ## Outputs -/

/-- R41, R35, R152, with the codes of R138: what the host reads between transactions. -/
def Obligations.OutputsShowTheState : Prop :=
  ∀ s : State,
    (∀ x y : Nat, x < 64 → y < 32 → s.fbFlat.getLsbD (y * 64 + x) = s.pixel x y) ∧
    (s.soundActive = true ↔ 0 < s.st.toNat) ∧
    s.modeCode = (match s.mode with
      | .reset => 0#2
      | .running => 1#2
      | .awaitingKey _ => 2#2
      | .halted => 3#2) ∧
    (∀ x, s.mode = .awaitingKey x → s.waitReg = x) ∧
    ((∀ x, s.mode ≠ .awaitingKey x) → s.waitReg = 0#4) ∧
    (s.fault = none → s.faultCode = 0#3 ∧ s.faultPc = 0#16 ∧ s.faultOpcode = 0#16 ∧
      s.faultOpcodeValid = false ∧ s.faultAddr = 0#17) ∧
    (∀ r, s.fault = some r → s.faultCode = r.code.number ∧ s.faultPc = r.pc ∧
      s.faultOpcode = r.opcode ∧ s.faultOpcodeValid = r.opcodeValid ∧ s.faultAddr = r.addr)

/-! ## Invariants -/

/-- Every step keeps memory in its canonical form, inside the 4096 bytes. -/
def Obligations.StepKeepsMemoryCanonical : Prop :=
  ∀ s t : State, MemoryCanonical s → step s = .next t → MemoryCanonical t

/-- Every step keeps: Halted exactly with a record held, and pc at the failing instruction (R35, R36,
R139, R143). -/
def Obligations.StepKeepsHaltedMatchesRecord : Prop :=
  ∀ s t : State, HaltedMatchesRecord s → step s = .next t → HaltedMatchesRecord t

/-- Every step keeps the fault record truthful: its code is one that its instruction raises, with the info
that code records, under the configuration that allows it (R36, R138). For KeyIndexOutOfRange that info is
VX, the model's choice where R36 and R138 differ (log 11). -/
def Obligations.StepKeepsFaultTruthful : Prop :=
  ∀ s t : State, FaultTruthful s → step s = .next t → FaultTruthful t

/-- The invariants hold after reset. That the idle input ports hold 0 is the model's choice (log 2), and the
default FONT_BASE is presumed (log 5). -/
def Obligations.ResetMeetsInvariants : Prop :=
  MemoryCanonical State.reset ∧ HaltedMatchesRecord State.reset ∧ FaultTruthful State.reset ∧
    Config.wellFormed State.reset.cfg = true ∧ Safe State.reset ∧ InputsIdle State.reset

/-- Every step answers a next state: no transaction and no instruction stops the model. It takes the first
transaction of the host's list and changes no parameter (R34, R43, R79), and it keeps the input ports idle
(R40; log 2). -/
def Obligations.StepAlwaysAnswersAndKeepsConfig : Prop :=
  ∀ s : State, ∃ t, step s = .next t ∧ t.cfg = s.cfg ∧ t.pending = s.pending.tail ∧
    (InputsIdle s → InputsIdle t)

/-- R86, R141, R143: whatever the host sends, as long as it sends no Reset, a Halted machine stays Halted
with the same record and the same registers, stack, memory and display; only the timers may run down. -/
def Obligations.HaltedLastsUntilReset : Prop :=
  ∀ (n : Nat) (s : State), s.mode = .halted → (∀ t ∈ s.pending.take n, t ≠ .reset) →
    ∃ t, core.run n s = .next t ∧ t.mode = .halted ∧ SameButFault { s with dt := t.dt, st := t.st } t ∧
      t.fault = s.fault ∧ t.pc = s.pc ∧ t.dt.toNat ≤ s.dt.toNat ∧ t.st.toNat ≤ s.st.toNat

/-! ## Whole-machine rules -/

/-- R24, R27, R29 to R31, R47: of all instructions, only 00E0 and DXYN write the display, only FX33 and FX55
memory, only ANNN, FX1E and FX29 I, only 2NNN and 00EE the stack, only FX15 DT and only FX18 ST. -/
def Obligations.EachStateHasItsWriters : Prop :=
  ∀ (i : Instr) (s t : State), exec i s = .next t →
    (t.fb ≠ s.fb → i = .cls ∨ ∃ x y n, i = .drw x y n) ∧
    (t.mem ≠ s.mem → ∃ x, i = .ldBcd x ∨ i = .storeRegs x) ∧
    (t.i ≠ s.i → (∃ nnn, i = .ldI nnn) ∨ ∃ x, i = .addI x ∨ i = .ldFont x) ∧
    (t.stack ≠ s.stack ∨ t.sp ≠ s.sp → i = .ret ∨ ∃ nnn, i = .call nnn) ∧
    (t.dt ≠ s.dt → ∃ x, i = .ldDtVx x) ∧
    (t.st ≠ s.st → ∃ x, i = .ldStVx x)

/-- R21: no instruction changes VF but the seven flag writers and those that name it as (one of) their
destination registers. -/
def Obligations.OnlyFlagWritersAndDestinationsChangeVF : Prop :=
  ∀ (i : Instr) (s t : State), exec i s = .next t → t.readReg 0xF#4 ≠ s.readReg 0xF#4 →
    (∃ x y n, i = .addReg x y ∨ i = .subReg x y ∨ i = .subnReg x y ∨ i = .shrReg x y ∨
      i = .shlReg x y ∨ i = .addI x ∨ i = .drw x y n) ∨
    (∃ y nn, i = .ldImm 0xF#4 nn ∨ i = .addImm 0xF#4 nn ∨ i = .rnd 0xF#4 nn ∨
      i = .ldReg 0xF#4 y ∨ i = .orReg 0xF#4 y ∨ i = .andReg 0xF#4 y ∨ i = .xorReg 0xF#4 y ∨
      i = .ldVxDt 0xF#4 ∨ i = .ldVxKey 0xF#4 ∨ i = .loadRegs 0xF#4)

/-- R166: FX0A is the only instruction that can suspend forward progress; every other one leaves the mode
as it was or faults. -/
def Obligations.OnlyKeyWaitSuspends : Prop :=
  ∀ (i : Instr) (s t : State), exec i s = .next t →
    t.mode = s.mode ∨ t.mode = .halted ∨ ∃ x, i = .ldVxKey x ∧ t.mode = .awaitingKey x

/-- R32, R33: only EX9E, EXA1 and FX0A depend on the key snapshot, and only CXNN on the random byte: any
other instruction gives the same answer for other inputs, but for the input ports themselves. And no Cycle
sees what the ports held before it, nor leaves its own inputs there (R40): the idle
ports hold 0, the model's choice (log 2). -/
def Obligations.InputsReachOnlyTheirReaders : Prop :=
  (∀ (i : Instr) (s t : State) (keys : BitVec 16) (rnd : Byte), exec i s = .next t →
    ((∀ x, i ≠ .skp x ∧ i ≠ .sknp x ∧ i ≠ .ldVxKey x) →
      exec i { s with keys := keys } = .next { t with keys := keys }) ∧
    ((∀ x nn, i ≠ .rnd x nn) → exec i { s with rnd := rnd } = .next { t with rnd := rnd })) ∧
  (∀ (s t : State) (keys k : BitVec 16) (rnd r : Byte) (rest : List Transaction),
    s.pending = .cycle keys rnd :: rest → step s = .next t →
      step { s with keys := k, rnd := r } = .next t ∧ InputsIdle t)
end

