-- ==== Sys2Proof/Laws/Decode.lean ====
section
/-! SUPPORT. The fields of a word put together from fields, in each operand form of R67, and the bytes of
a word. -/

namespace Sys2Proof

/-! ## Words of the form F NNN -/

section
variable (f : Nibble) (nnn : Addr12)

@[simp] theorem fieldF_nnn : fieldF (f ++ nnn) = f := by
  apply BitVec.eq_of_getLsbD_eq
  intro i hi
  simp only [fieldF, BitVec.getLsbD_extractLsb', BitVec.getLsbD_append, hi, decide_true, Bool.true_and]
  rw [if_neg (by omega)]
  congr 1; omega

@[simp] theorem fieldNNN_nnn : fieldNNN (f ++ nnn) = nnn := by
  apply BitVec.eq_of_getLsbD_eq
  intro i hi
  simp only [fieldNNN, BitVec.getLsbD_extractLsb', BitVec.getLsbD_append, hi, decide_true, Bool.true_and]
  rw [if_pos (by omega)]
  congr 1; omega

end

/-! ## Words of the form F X NN -/

section
variable (f x : Nibble) (nn : Byte)

@[simp] theorem fieldF_xnn : fieldF (f ++ x ++ nn) = f := by
  apply BitVec.eq_of_getLsbD_eq
  intro i hi
  simp only [fieldF, BitVec.getLsbD_extractLsb', BitVec.getLsbD_append, hi, decide_true, Bool.true_and]
  rw [if_neg (by omega), if_neg (by omega)]
  congr 1; omega

@[simp] theorem fieldX_xnn : fieldX (f ++ x ++ nn) = x := by
  apply BitVec.eq_of_getLsbD_eq
  intro i hi
  simp only [fieldX, BitVec.getLsbD_extractLsb', BitVec.getLsbD_append, hi, decide_true, Bool.true_and]
  rw [if_neg (by omega), if_pos (by omega)]
  congr 1; omega

@[simp] theorem fieldNN_xnn : fieldNN (f ++ x ++ nn) = nn := by
  apply BitVec.eq_of_getLsbD_eq
  intro i hi
  simp only [fieldNN, BitVec.getLsbD_extractLsb', BitVec.getLsbD_append, hi, decide_true, Bool.true_and]
  rw [if_pos (by omega)]
  congr 1; omega

end

/-! ## Words of the form F X Y N -/

section
variable (f x y n : Nibble)

@[simp] theorem fieldF_xyn : fieldF (f ++ x ++ y ++ n) = f := by
  apply BitVec.eq_of_getLsbD_eq
  intro i hi
  simp only [fieldF, BitVec.getLsbD_extractLsb', BitVec.getLsbD_append, hi, decide_true, Bool.true_and]
  rw [if_neg (by omega), if_neg (by omega), if_neg (by omega)]
  congr 1; omega

@[simp] theorem fieldX_xyn : fieldX (f ++ x ++ y ++ n) = x := by
  apply BitVec.eq_of_getLsbD_eq
  intro i hi
  simp only [fieldX, BitVec.getLsbD_extractLsb', BitVec.getLsbD_append, hi, decide_true, Bool.true_and]
  rw [if_neg (by omega), if_neg (by omega), if_pos (by omega)]
  congr 1; omega

@[simp] theorem fieldY_xyn : fieldY (f ++ x ++ y ++ n) = y := by
  apply BitVec.eq_of_getLsbD_eq
  intro i hi
  simp only [fieldY, BitVec.getLsbD_extractLsb', BitVec.getLsbD_append, hi, decide_true, Bool.true_and]
  rw [if_neg (by omega), if_pos (by omega)]
  congr 1; omega

@[simp] theorem fieldN_xyn : fieldN (f ++ x ++ y ++ n) = n := by
  apply BitVec.eq_of_getLsbD_eq
  intro i hi
  simp only [fieldN, BitVec.getLsbD_extractLsb', BitVec.getLsbD_append, hi, decide_true, Bool.true_and]
  rw [if_pos (by omega)]
  congr 1; omega

end

/-! ## A word is its fields, and its bytes -/

/-- A word is its family and NNN. -/
theorem word_eq_nnn (w : Word) : fieldF w ++ fieldNNN w = w := by
  apply BitVec.eq_of_getLsbD_eq
  intro i hi
  simp only [fieldF, fieldNNN, BitVec.getLsbD_append, BitVec.getLsbD_extractLsb']
  split
  · rename_i h; simp [h]
  · rename_i h
    have h1 : i - 12 < 4 := by omega
    have h2 : 12 + (i - 12) = i := by omega
    simp [h1, h2]

/-- A word is its family, X and NN. -/
theorem word_eq_xnn (w : Word) : fieldF w ++ fieldX w ++ fieldNN w = w := by
  apply BitVec.eq_of_getLsbD_eq
  intro i hi
  simp only [fieldF, fieldX, fieldNN, BitVec.getLsbD_append, BitVec.getLsbD_extractLsb']
  split
  · rename_i h; simp [h]
  · split
    · rename_i h h'
      have h2 : 8 + (i - 8) = i := by omega
      simp [h', h2]
    · rename_i h h'
      have h1 : i - 8 - 4 < 4 := by omega
      have h2 : 12 + (i - 8 - 4) = i := by omega
      simp [h1, h2]

/-- A word is its four nibbles. -/
theorem word_eq_xyn (w : Word) : fieldF w ++ fieldX w ++ fieldY w ++ fieldN w = w := by
  apply BitVec.eq_of_getLsbD_eq
  intro i hi
  simp only [fieldF, fieldX, fieldY, fieldN, BitVec.getLsbD_append, BitVec.getLsbD_extractLsb']
  split
  · rename_i h; simp [h]
  · split
    · rename_i h h'
      have h2 : 4 + (i - 4) = i := by omega
      simp [h', h2]
    · split
      · rename_i h h' h''
        have h2 : 8 + (i - 4 - 4) = i := by omega
        simp [h'', h2]
      · rename_i h h' h''
        have h1 : i - 4 - 4 - 4 < 4 := by omega
        have h2 : 12 + (i - 4 - 4 - 4) = i := by omega
        simp [h1, h2]

/-- The two bytes of a word, the high one first, make the word again (R52, R64). -/
@[simp] theorem wordOfBytes_bytes (w : Word) : wordOfBytes (highByte w) (lowByte w) = w := by
  apply BitVec.eq_of_getLsbD_eq
  intro i hi
  simp only [wordOfBytes, highByte, lowByte, BitVec.getLsbD_append, BitVec.getLsbD_extractLsb']
  split
  · rename_i h; simp [h]
  · rename_i h
    have h1 : i - 8 < 8 := by omega
    have h2 : 8 + (i - 8) = i := by omega
    simp [h1, h2]

/-! ## The masks of the opcode map are its fields (R69) -/

theorem and_maskF (w : Word) : w &&& 0xF000#16 = fieldF w ++ 0#12 := by
  apply BitVec.eq_of_getLsbD_eq
  intro i hi
  simp only [fieldF, BitVec.getLsbD_and, BitVec.getLsbD_append, BitVec.getLsbD_extractLsb']
  interval_cases i <;> simp

theorem and_maskFN (w : Word) : w &&& 0xF00F#16 = fieldF w ++ 0#8 ++ fieldN w := by
  apply BitVec.eq_of_getLsbD_eq
  intro i hi
  simp only [fieldF, fieldN, BitVec.getLsbD_and, BitVec.getLsbD_append, BitVec.getLsbD_extractLsb']
  interval_cases i <;> simp

theorem and_maskFNN (w : Word) : w &&& 0xF0FF#16 = fieldF w ++ 0#4 ++ fieldNN w := by
  apply BitVec.eq_of_getLsbD_eq
  intro i hi
  simp only [fieldF, fieldNN, BitVec.getLsbD_and, BitVec.getLsbD_append, BitVec.getLsbD_extractLsb']
  interval_cases i <;> simp

/-! ## A decoding that fails names the word itself (R74) -/

theorem decodeFamily0_error {w : Word} {e : DecodeReject} (h : decodeFamily0 w = .error e) :
    e = .unmatched w := by
  unfold decodeFamily0 at h
  split at h <;> cases h
  rfl

theorem decodeFamily8_error {w : Word} {e : DecodeReject} (h : decodeFamily8 w = .error e) :
    e = .unmatched w := by
  unfold decodeFamily8 at h
  split at h <;> cases h
  rfl

theorem decodeFamilyE_error {w : Word} {e : DecodeReject} (h : decodeFamilyE w = .error e) :
    e = .unmatched w := by
  unfold decodeFamilyE at h
  split at h <;> cases h
  rfl

theorem decodeFamilyF_error {w : Word} {e : DecodeReject} (h : decodeFamilyF w = .error e) :
    e = .unmatched w := by
  unfold decodeFamilyF at h
  split at h <;> cases h
  rfl

theorem decodeWord_error {w : Word} {e : DecodeReject} (h : decodeWord w = .error e) :
    e = .unmatched w := by
  unfold decodeWord at h
  split at h
  all_goals first
    | exact decodeFamily0_error h
    | exact decodeFamily8_error h
    | exact decodeFamilyE_error h
    | exact decodeFamilyF_error h
    | cases h

end Sys2Proof
end

