-- ==== Sys2Proof/Laws/State.lean ====
section
/-! SUPPORT. What each update of the state does to each field: one lemma per field per update, so that
no proof unfolds a record update. Then the views `readReg`, `readMem` and `pixel` through the updates. -/

namespace Sys2Proof.Machine

/-! ## setI -/

@[simp] theorem setI_v (s : State) (a : Word) : (s.setI a).v = s.v := rfl
@[simp] theorem setI_i (s : State) (a : Word) : (s.setI a).i = a := rfl
@[simp] theorem setI_pc (s : State) (a : Word) : (s.setI a).pc = s.pc := rfl
@[simp] theorem setI_stack (s : State) (a : Word) : (s.setI a).stack = s.stack := rfl
@[simp] theorem setI_sp (s : State) (a : Word) : (s.setI a).sp = s.sp := rfl
@[simp] theorem setI_dt (s : State) (a : Word) : (s.setI a).dt = s.dt := rfl
@[simp] theorem setI_st (s : State) (a : Word) : (s.setI a).st = s.st := rfl
@[simp] theorem setI_fb (s : State) (a : Word) : (s.setI a).fb = s.fb := rfl
@[simp] theorem setI_mem (s : State) (a : Word) : (s.setI a).mem = s.mem := rfl
@[simp] theorem setI_mode (s : State) (a : Word) : (s.setI a).mode = s.mode := rfl
@[simp] theorem setI_fault (s : State) (a : Word) : (s.setI a).fault = s.fault := rfl
@[simp] theorem setI_loadTruncated (s : State) (a : Word) : (s.setI a).loadTruncated = s.loadTruncated := rfl
@[simp] theorem setI_cfg (s : State) (a : Word) : (s.setI a).cfg = s.cfg := rfl
@[simp] theorem setI_keys (s : State) (a : Word) : (s.setI a).keys = s.keys := rfl
@[simp] theorem setI_rnd (s : State) (a : Word) : (s.setI a).rnd = s.rnd := rfl
@[simp] theorem setI_outcome (s : State) (a : Word) : (s.setI a).outcome = s.outcome := rfl
@[simp] theorem setI_diag (s : State) (a : Word) : (s.setI a).diag = s.diag := rfl
@[simp] theorem setI_pending (s : State) (a : Word) : (s.setI a).pending = s.pending := rfl
@[simp] theorem setI_readReg (s : State) (a : Word) (y : Nibble) :
    (s.setI a).readReg y = s.readReg y := rfl
@[simp] theorem setI_readMem (s : State) (a : Word) (e : Nat) :
    (s.setI a).readMem e = s.readMem e := rfl
@[simp] theorem setI_pixel (s : State) (a : Word) (cx cy : Nat) :
    (s.setI a).pixel cx cy = s.pixel cx cy := rfl

/-! ## setPc -/

@[simp] theorem setPc_v (s : State) (a : Word) : (s.setPc a).v = s.v := rfl
@[simp] theorem setPc_i (s : State) (a : Word) : (s.setPc a).i = s.i := rfl
@[simp] theorem setPc_pc (s : State) (a : Word) : (s.setPc a).pc = a := rfl
@[simp] theorem setPc_stack (s : State) (a : Word) : (s.setPc a).stack = s.stack := rfl
@[simp] theorem setPc_sp (s : State) (a : Word) : (s.setPc a).sp = s.sp := rfl
@[simp] theorem setPc_dt (s : State) (a : Word) : (s.setPc a).dt = s.dt := rfl
@[simp] theorem setPc_st (s : State) (a : Word) : (s.setPc a).st = s.st := rfl
@[simp] theorem setPc_fb (s : State) (a : Word) : (s.setPc a).fb = s.fb := rfl
@[simp] theorem setPc_mem (s : State) (a : Word) : (s.setPc a).mem = s.mem := rfl
@[simp] theorem setPc_mode (s : State) (a : Word) : (s.setPc a).mode = s.mode := rfl
@[simp] theorem setPc_fault (s : State) (a : Word) : (s.setPc a).fault = s.fault := rfl
@[simp] theorem setPc_loadTruncated (s : State) (a : Word) : (s.setPc a).loadTruncated = s.loadTruncated := rfl
@[simp] theorem setPc_cfg (s : State) (a : Word) : (s.setPc a).cfg = s.cfg := rfl
@[simp] theorem setPc_keys (s : State) (a : Word) : (s.setPc a).keys = s.keys := rfl
@[simp] theorem setPc_rnd (s : State) (a : Word) : (s.setPc a).rnd = s.rnd := rfl
@[simp] theorem setPc_outcome (s : State) (a : Word) : (s.setPc a).outcome = s.outcome := rfl
@[simp] theorem setPc_diag (s : State) (a : Word) : (s.setPc a).diag = s.diag := rfl
@[simp] theorem setPc_pending (s : State) (a : Word) : (s.setPc a).pending = s.pending := rfl
@[simp] theorem setPc_readReg (s : State) (a : Word) (y : Nibble) :
    (s.setPc a).readReg y = s.readReg y := rfl
@[simp] theorem setPc_readMem (s : State) (a : Word) (e : Nat) :
    (s.setPc a).readMem e = s.readMem e := rfl
@[simp] theorem setPc_pixel (s : State) (a : Word) (cx cy : Nat) :
    (s.setPc a).pixel cx cy = s.pixel cx cy := rfl

/-! ## setDt -/

@[simp] theorem setDt_v (s : State) (b : Byte) : (s.setDt b).v = s.v := rfl
@[simp] theorem setDt_i (s : State) (b : Byte) : (s.setDt b).i = s.i := rfl
@[simp] theorem setDt_pc (s : State) (b : Byte) : (s.setDt b).pc = s.pc := rfl
@[simp] theorem setDt_stack (s : State) (b : Byte) : (s.setDt b).stack = s.stack := rfl
@[simp] theorem setDt_sp (s : State) (b : Byte) : (s.setDt b).sp = s.sp := rfl
@[simp] theorem setDt_dt (s : State) (b : Byte) : (s.setDt b).dt = b := rfl
@[simp] theorem setDt_st (s : State) (b : Byte) : (s.setDt b).st = s.st := rfl
@[simp] theorem setDt_fb (s : State) (b : Byte) : (s.setDt b).fb = s.fb := rfl
@[simp] theorem setDt_mem (s : State) (b : Byte) : (s.setDt b).mem = s.mem := rfl
@[simp] theorem setDt_mode (s : State) (b : Byte) : (s.setDt b).mode = s.mode := rfl
@[simp] theorem setDt_fault (s : State) (b : Byte) : (s.setDt b).fault = s.fault := rfl
@[simp] theorem setDt_loadTruncated (s : State) (b : Byte) : (s.setDt b).loadTruncated = s.loadTruncated := rfl
@[simp] theorem setDt_cfg (s : State) (b : Byte) : (s.setDt b).cfg = s.cfg := rfl
@[simp] theorem setDt_keys (s : State) (b : Byte) : (s.setDt b).keys = s.keys := rfl
@[simp] theorem setDt_rnd (s : State) (b : Byte) : (s.setDt b).rnd = s.rnd := rfl
@[simp] theorem setDt_outcome (s : State) (b : Byte) : (s.setDt b).outcome = s.outcome := rfl
@[simp] theorem setDt_diag (s : State) (b : Byte) : (s.setDt b).diag = s.diag := rfl
@[simp] theorem setDt_pending (s : State) (b : Byte) : (s.setDt b).pending = s.pending := rfl
@[simp] theorem setDt_readReg (s : State) (b : Byte) (y : Nibble) :
    (s.setDt b).readReg y = s.readReg y := rfl
@[simp] theorem setDt_readMem (s : State) (b : Byte) (e : Nat) :
    (s.setDt b).readMem e = s.readMem e := rfl
@[simp] theorem setDt_pixel (s : State) (b : Byte) (cx cy : Nat) :
    (s.setDt b).pixel cx cy = s.pixel cx cy := rfl

/-! ## setSt -/

@[simp] theorem setSt_v (s : State) (b : Byte) : (s.setSt b).v = s.v := rfl
@[simp] theorem setSt_i (s : State) (b : Byte) : (s.setSt b).i = s.i := rfl
@[simp] theorem setSt_pc (s : State) (b : Byte) : (s.setSt b).pc = s.pc := rfl
@[simp] theorem setSt_stack (s : State) (b : Byte) : (s.setSt b).stack = s.stack := rfl
@[simp] theorem setSt_sp (s : State) (b : Byte) : (s.setSt b).sp = s.sp := rfl
@[simp] theorem setSt_dt (s : State) (b : Byte) : (s.setSt b).dt = s.dt := rfl
@[simp] theorem setSt_st (s : State) (b : Byte) : (s.setSt b).st = b := rfl
@[simp] theorem setSt_fb (s : State) (b : Byte) : (s.setSt b).fb = s.fb := rfl
@[simp] theorem setSt_mem (s : State) (b : Byte) : (s.setSt b).mem = s.mem := rfl
@[simp] theorem setSt_mode (s : State) (b : Byte) : (s.setSt b).mode = s.mode := rfl
@[simp] theorem setSt_fault (s : State) (b : Byte) : (s.setSt b).fault = s.fault := rfl
@[simp] theorem setSt_loadTruncated (s : State) (b : Byte) : (s.setSt b).loadTruncated = s.loadTruncated := rfl
@[simp] theorem setSt_cfg (s : State) (b : Byte) : (s.setSt b).cfg = s.cfg := rfl
@[simp] theorem setSt_keys (s : State) (b : Byte) : (s.setSt b).keys = s.keys := rfl
@[simp] theorem setSt_rnd (s : State) (b : Byte) : (s.setSt b).rnd = s.rnd := rfl
@[simp] theorem setSt_outcome (s : State) (b : Byte) : (s.setSt b).outcome = s.outcome := rfl
@[simp] theorem setSt_diag (s : State) (b : Byte) : (s.setSt b).diag = s.diag := rfl
@[simp] theorem setSt_pending (s : State) (b : Byte) : (s.setSt b).pending = s.pending := rfl
@[simp] theorem setSt_readReg (s : State) (b : Byte) (y : Nibble) :
    (s.setSt b).readReg y = s.readReg y := rfl
@[simp] theorem setSt_readMem (s : State) (b : Byte) (e : Nat) :
    (s.setSt b).readMem e = s.readMem e := rfl
@[simp] theorem setSt_pixel (s : State) (b : Byte) (cx cy : Nat) :
    (s.setSt b).pixel cx cy = s.pixel cx cy := rfl

/-! ## setFb -/

@[simp] theorem setFb_v (s : State) (d : Vector (BitVec 64) 32) : (s.setFb d).v = s.v := rfl
@[simp] theorem setFb_i (s : State) (d : Vector (BitVec 64) 32) : (s.setFb d).i = s.i := rfl
@[simp] theorem setFb_pc (s : State) (d : Vector (BitVec 64) 32) : (s.setFb d).pc = s.pc := rfl
@[simp] theorem setFb_stack (s : State) (d : Vector (BitVec 64) 32) : (s.setFb d).stack = s.stack := rfl
@[simp] theorem setFb_sp (s : State) (d : Vector (BitVec 64) 32) : (s.setFb d).sp = s.sp := rfl
@[simp] theorem setFb_dt (s : State) (d : Vector (BitVec 64) 32) : (s.setFb d).dt = s.dt := rfl
@[simp] theorem setFb_st (s : State) (d : Vector (BitVec 64) 32) : (s.setFb d).st = s.st := rfl
@[simp] theorem setFb_fb (s : State) (d : Vector (BitVec 64) 32) : (s.setFb d).fb = d := rfl
@[simp] theorem setFb_mem (s : State) (d : Vector (BitVec 64) 32) : (s.setFb d).mem = s.mem := rfl
@[simp] theorem setFb_mode (s : State) (d : Vector (BitVec 64) 32) : (s.setFb d).mode = s.mode := rfl
@[simp] theorem setFb_fault (s : State) (d : Vector (BitVec 64) 32) : (s.setFb d).fault = s.fault := rfl
@[simp] theorem setFb_loadTruncated (s : State) (d : Vector (BitVec 64) 32) : (s.setFb d).loadTruncated = s.loadTruncated := rfl
@[simp] theorem setFb_cfg (s : State) (d : Vector (BitVec 64) 32) : (s.setFb d).cfg = s.cfg := rfl
@[simp] theorem setFb_keys (s : State) (d : Vector (BitVec 64) 32) : (s.setFb d).keys = s.keys := rfl
@[simp] theorem setFb_rnd (s : State) (d : Vector (BitVec 64) 32) : (s.setFb d).rnd = s.rnd := rfl
@[simp] theorem setFb_outcome (s : State) (d : Vector (BitVec 64) 32) : (s.setFb d).outcome = s.outcome := rfl
@[simp] theorem setFb_diag (s : State) (d : Vector (BitVec 64) 32) : (s.setFb d).diag = s.diag := rfl
@[simp] theorem setFb_pending (s : State) (d : Vector (BitVec 64) 32) : (s.setFb d).pending = s.pending := rfl
@[simp] theorem setFb_readReg (s : State) (d : Vector (BitVec 64) 32) (y : Nibble) :
    (s.setFb d).readReg y = s.readReg y := rfl
@[simp] theorem setFb_readMem (s : State) (d : Vector (BitVec 64) 32) (e : Nat) :
    (s.setFb d).readMem e = s.readMem e := rfl

/-! ## setMem -/

@[simp] theorem setMem_v (s : State) (m : Memory) : (s.setMem m).v = s.v := rfl
@[simp] theorem setMem_i (s : State) (m : Memory) : (s.setMem m).i = s.i := rfl
@[simp] theorem setMem_pc (s : State) (m : Memory) : (s.setMem m).pc = s.pc := rfl
@[simp] theorem setMem_stack (s : State) (m : Memory) : (s.setMem m).stack = s.stack := rfl
@[simp] theorem setMem_sp (s : State) (m : Memory) : (s.setMem m).sp = s.sp := rfl
@[simp] theorem setMem_dt (s : State) (m : Memory) : (s.setMem m).dt = s.dt := rfl
@[simp] theorem setMem_st (s : State) (m : Memory) : (s.setMem m).st = s.st := rfl
@[simp] theorem setMem_fb (s : State) (m : Memory) : (s.setMem m).fb = s.fb := rfl
@[simp] theorem setMem_mem (s : State) (m : Memory) : (s.setMem m).mem = m := rfl
@[simp] theorem setMem_mode (s : State) (m : Memory) : (s.setMem m).mode = s.mode := rfl
@[simp] theorem setMem_fault (s : State) (m : Memory) : (s.setMem m).fault = s.fault := rfl
@[simp] theorem setMem_loadTruncated (s : State) (m : Memory) : (s.setMem m).loadTruncated = s.loadTruncated := rfl
@[simp] theorem setMem_cfg (s : State) (m : Memory) : (s.setMem m).cfg = s.cfg := rfl
@[simp] theorem setMem_keys (s : State) (m : Memory) : (s.setMem m).keys = s.keys := rfl
@[simp] theorem setMem_rnd (s : State) (m : Memory) : (s.setMem m).rnd = s.rnd := rfl
@[simp] theorem setMem_outcome (s : State) (m : Memory) : (s.setMem m).outcome = s.outcome := rfl
@[simp] theorem setMem_diag (s : State) (m : Memory) : (s.setMem m).diag = s.diag := rfl
@[simp] theorem setMem_pending (s : State) (m : Memory) : (s.setMem m).pending = s.pending := rfl
@[simp] theorem setMem_readReg (s : State) (m : Memory) (y : Nibble) :
    (s.setMem m).readReg y = s.readReg y := rfl
@[simp] theorem setMem_pixel (s : State) (m : Memory) (cx cy : Nat) :
    (s.setMem m).pixel cx cy = s.pixel cx cy := rfl

/-! ## setMode -/

@[simp] theorem setMode_v (s : State) (m : Mode) : (s.setMode m).v = s.v := rfl
@[simp] theorem setMode_i (s : State) (m : Mode) : (s.setMode m).i = s.i := rfl
@[simp] theorem setMode_pc (s : State) (m : Mode) : (s.setMode m).pc = s.pc := rfl
@[simp] theorem setMode_stack (s : State) (m : Mode) : (s.setMode m).stack = s.stack := rfl
@[simp] theorem setMode_sp (s : State) (m : Mode) : (s.setMode m).sp = s.sp := rfl
@[simp] theorem setMode_dt (s : State) (m : Mode) : (s.setMode m).dt = s.dt := rfl
@[simp] theorem setMode_st (s : State) (m : Mode) : (s.setMode m).st = s.st := rfl
@[simp] theorem setMode_fb (s : State) (m : Mode) : (s.setMode m).fb = s.fb := rfl
@[simp] theorem setMode_mem (s : State) (m : Mode) : (s.setMode m).mem = s.mem := rfl
@[simp] theorem setMode_mode (s : State) (m : Mode) : (s.setMode m).mode = m := rfl
@[simp] theorem setMode_fault (s : State) (m : Mode) : (s.setMode m).fault = s.fault := rfl
@[simp] theorem setMode_loadTruncated (s : State) (m : Mode) : (s.setMode m).loadTruncated = s.loadTruncated := rfl
@[simp] theorem setMode_cfg (s : State) (m : Mode) : (s.setMode m).cfg = s.cfg := rfl
@[simp] theorem setMode_keys (s : State) (m : Mode) : (s.setMode m).keys = s.keys := rfl
@[simp] theorem setMode_rnd (s : State) (m : Mode) : (s.setMode m).rnd = s.rnd := rfl
@[simp] theorem setMode_outcome (s : State) (m : Mode) : (s.setMode m).outcome = s.outcome := rfl
@[simp] theorem setMode_diag (s : State) (m : Mode) : (s.setMode m).diag = s.diag := rfl
@[simp] theorem setMode_pending (s : State) (m : Mode) : (s.setMode m).pending = s.pending := rfl
@[simp] theorem setMode_readReg (s : State) (m : Mode) (y : Nibble) :
    (s.setMode m).readReg y = s.readReg y := rfl
@[simp] theorem setMode_readMem (s : State) (m : Mode) (e : Nat) :
    (s.setMode m).readMem e = s.readMem e := rfl
@[simp] theorem setMode_pixel (s : State) (m : Mode) (cx cy : Nat) :
    (s.setMode m).pixel cx cy = s.pixel cx cy := rfl

/-! ## setStack -/

@[simp] theorem setStack_v (s : State) (k : Vector Word 16) (n : Fin 17) : (s.setStack k n).v = s.v := rfl
@[simp] theorem setStack_i (s : State) (k : Vector Word 16) (n : Fin 17) : (s.setStack k n).i = s.i := rfl
@[simp] theorem setStack_pc (s : State) (k : Vector Word 16) (n : Fin 17) : (s.setStack k n).pc = s.pc := rfl
@[simp] theorem setStack_stack (s : State) (k : Vector Word 16) (n : Fin 17) : (s.setStack k n).stack = k := rfl
@[simp] theorem setStack_sp (s : State) (k : Vector Word 16) (n : Fin 17) : (s.setStack k n).sp = n := rfl
@[simp] theorem setStack_dt (s : State) (k : Vector Word 16) (n : Fin 17) : (s.setStack k n).dt = s.dt := rfl
@[simp] theorem setStack_st (s : State) (k : Vector Word 16) (n : Fin 17) : (s.setStack k n).st = s.st := rfl
@[simp] theorem setStack_fb (s : State) (k : Vector Word 16) (n : Fin 17) : (s.setStack k n).fb = s.fb := rfl
@[simp] theorem setStack_mem (s : State) (k : Vector Word 16) (n : Fin 17) : (s.setStack k n).mem = s.mem := rfl
@[simp] theorem setStack_mode (s : State) (k : Vector Word 16) (n : Fin 17) : (s.setStack k n).mode = s.mode := rfl
@[simp] theorem setStack_fault (s : State) (k : Vector Word 16) (n : Fin 17) : (s.setStack k n).fault = s.fault := rfl
@[simp] theorem setStack_loadTruncated (s : State) (k : Vector Word 16) (n : Fin 17) : (s.setStack k n).loadTruncated = s.loadTruncated := rfl
@[simp] theorem setStack_cfg (s : State) (k : Vector Word 16) (n : Fin 17) : (s.setStack k n).cfg = s.cfg := rfl
@[simp] theorem setStack_keys (s : State) (k : Vector Word 16) (n : Fin 17) : (s.setStack k n).keys = s.keys := rfl
@[simp] theorem setStack_rnd (s : State) (k : Vector Word 16) (n : Fin 17) : (s.setStack k n).rnd = s.rnd := rfl
@[simp] theorem setStack_outcome (s : State) (k : Vector Word 16) (n : Fin 17) : (s.setStack k n).outcome = s.outcome := rfl
@[simp] theorem setStack_diag (s : State) (k : Vector Word 16) (n : Fin 17) : (s.setStack k n).diag = s.diag := rfl
@[simp] theorem setStack_pending (s : State) (k : Vector Word 16) (n : Fin 17) : (s.setStack k n).pending = s.pending := rfl
@[simp] theorem setStack_readReg (s : State) (k : Vector Word 16) (n : Fin 17) (y : Nibble) :
    (s.setStack k n).readReg y = s.readReg y := rfl
@[simp] theorem setStack_readMem (s : State) (k : Vector Word 16) (n : Fin 17) (e : Nat) :
    (s.setStack k n).readMem e = s.readMem e := rfl
@[simp] theorem setStack_pixel (s : State) (k : Vector Word 16) (n : Fin 17) (cx cy : Nat) :
    (s.setStack k n).pixel cx cy = s.pixel cx cy := rfl

/-! ## report -/

@[simp] theorem report_v (s : State) (r : Report) : (s.report r).v = s.v := rfl
@[simp] theorem report_i (s : State) (r : Report) : (s.report r).i = s.i := rfl
@[simp] theorem report_pc (s : State) (r : Report) : (s.report r).pc = s.pc := rfl
@[simp] theorem report_stack (s : State) (r : Report) : (s.report r).stack = s.stack := rfl
@[simp] theorem report_sp (s : State) (r : Report) : (s.report r).sp = s.sp := rfl
@[simp] theorem report_dt (s : State) (r : Report) : (s.report r).dt = s.dt := rfl
@[simp] theorem report_st (s : State) (r : Report) : (s.report r).st = s.st := rfl
@[simp] theorem report_fb (s : State) (r : Report) : (s.report r).fb = s.fb := rfl
@[simp] theorem report_mem (s : State) (r : Report) : (s.report r).mem = s.mem := rfl
@[simp] theorem report_mode (s : State) (r : Report) : (s.report r).mode = s.mode := rfl
@[simp] theorem report_fault (s : State) (r : Report) : (s.report r).fault = s.fault := rfl
@[simp] theorem report_loadTruncated (s : State) (r : Report) : (s.report r).loadTruncated = s.loadTruncated := rfl
@[simp] theorem report_cfg (s : State) (r : Report) : (s.report r).cfg = s.cfg := rfl
@[simp] theorem report_keys (s : State) (r : Report) : (s.report r).keys = s.keys := rfl
@[simp] theorem report_rnd (s : State) (r : Report) : (s.report r).rnd = s.rnd := rfl
@[simp] theorem report_outcome (s : State) (r : Report) : (s.report r).outcome = some r := rfl
@[simp] theorem report_diag (s : State) (r : Report) : (s.report r).diag = s.diag := rfl
@[simp] theorem report_pending (s : State) (r : Report) : (s.report r).pending = s.pending := rfl
@[simp] theorem report_readReg (s : State) (r : Report) (y : Nibble) :
    (s.report r).readReg y = s.readReg y := rfl
@[simp] theorem report_readMem (s : State) (r : Report) (e : Nat) :
    (s.report r).readMem e = s.readMem e := rfl
@[simp] theorem report_pixel (s : State) (r : Report) (cx cy : Nat) :
    (s.report r).pixel cx cy = s.pixel cx cy := rfl

/-! ## advance -/

@[simp] theorem advance_v (s : State) : (s.advance).v = s.v := rfl
@[simp] theorem advance_i (s : State) : (s.advance).i = s.i := rfl
@[simp] theorem advance_pc (s : State) : (s.advance).pc = s.pc + 2#16 := rfl
@[simp] theorem advance_stack (s : State) : (s.advance).stack = s.stack := rfl
@[simp] theorem advance_sp (s : State) : (s.advance).sp = s.sp := rfl
@[simp] theorem advance_dt (s : State) : (s.advance).dt = s.dt := rfl
@[simp] theorem advance_st (s : State) : (s.advance).st = s.st := rfl
@[simp] theorem advance_fb (s : State) : (s.advance).fb = s.fb := rfl
@[simp] theorem advance_mem (s : State) : (s.advance).mem = s.mem := rfl
@[simp] theorem advance_mode (s : State) : (s.advance).mode = s.mode := rfl
@[simp] theorem advance_fault (s : State) : (s.advance).fault = s.fault := rfl
@[simp] theorem advance_loadTruncated (s : State) : (s.advance).loadTruncated = s.loadTruncated := rfl
@[simp] theorem advance_cfg (s : State) : (s.advance).cfg = s.cfg := rfl
@[simp] theorem advance_keys (s : State) : (s.advance).keys = s.keys := rfl
@[simp] theorem advance_rnd (s : State) : (s.advance).rnd = s.rnd := rfl
@[simp] theorem advance_outcome (s : State) : (s.advance).outcome = s.outcome := rfl
@[simp] theorem advance_diag (s : State) : (s.advance).diag = s.diag := rfl
@[simp] theorem advance_pending (s : State) : (s.advance).pending = s.pending := rfl
@[simp] theorem advance_readReg (s : State) (y : Nibble) :
    (s.advance).readReg y = s.readReg y := rfl
@[simp] theorem advance_readMem (s : State) (e : Nat) :
    (s.advance).readMem e = s.readMem e := rfl
@[simp] theorem advance_pixel (s : State) (cx cy : Nat) :
    (s.advance).pixel cx cy = s.pixel cx cy := rfl

/-! ## beginCycle -/

@[simp] theorem beginCycle_v (s : State) (k : BitVec 16) (r : Byte) : (s.beginCycle k r).v = s.v := rfl
@[simp] theorem beginCycle_i (s : State) (k : BitVec 16) (r : Byte) : (s.beginCycle k r).i = s.i := rfl
@[simp] theorem beginCycle_pc (s : State) (k : BitVec 16) (r : Byte) : (s.beginCycle k r).pc = s.pc := rfl
@[simp] theorem beginCycle_stack (s : State) (k : BitVec 16) (r : Byte) : (s.beginCycle k r).stack = s.stack := rfl
@[simp] theorem beginCycle_sp (s : State) (k : BitVec 16) (r : Byte) : (s.beginCycle k r).sp = s.sp := rfl
@[simp] theorem beginCycle_dt (s : State) (k : BitVec 16) (r : Byte) : (s.beginCycle k r).dt = s.dt := rfl
@[simp] theorem beginCycle_st (s : State) (k : BitVec 16) (r : Byte) : (s.beginCycle k r).st = s.st := rfl
@[simp] theorem beginCycle_fb (s : State) (k : BitVec 16) (r : Byte) : (s.beginCycle k r).fb = s.fb := rfl
@[simp] theorem beginCycle_mem (s : State) (k : BitVec 16) (r : Byte) : (s.beginCycle k r).mem = s.mem := rfl
@[simp] theorem beginCycle_mode (s : State) (k : BitVec 16) (r : Byte) : (s.beginCycle k r).mode = s.mode := rfl
@[simp] theorem beginCycle_fault (s : State) (k : BitVec 16) (r : Byte) : (s.beginCycle k r).fault = s.fault := rfl
@[simp] theorem beginCycle_loadTruncated (s : State) (k : BitVec 16) (r : Byte) : (s.beginCycle k r).loadTruncated = s.loadTruncated := rfl
@[simp] theorem beginCycle_cfg (s : State) (k : BitVec 16) (r : Byte) : (s.beginCycle k r).cfg = s.cfg := rfl
@[simp] theorem beginCycle_keys (s : State) (k : BitVec 16) (r : Byte) : (s.beginCycle k r).keys = k := rfl
@[simp] theorem beginCycle_rnd (s : State) (k : BitVec 16) (r : Byte) : (s.beginCycle k r).rnd = r := rfl
@[simp] theorem beginCycle_outcome (s : State) (k : BitVec 16) (r : Byte) : (s.beginCycle k r).outcome = s.outcome := rfl
@[simp] theorem beginCycle_diag (s : State) (k : BitVec 16) (r : Byte) : (s.beginCycle k r).diag = none := rfl
@[simp] theorem beginCycle_pending (s : State) (k : BitVec 16) (r : Byte) : (s.beginCycle k r).pending = s.pending := rfl
@[simp] theorem beginCycle_readReg (s : State) (k : BitVec 16) (r : Byte) (y : Nibble) :
    (s.beginCycle k r).readReg y = s.readReg y := rfl
@[simp] theorem beginCycle_readMem (s : State) (k : BitVec 16) (r : Byte) (e : Nat) :
    (s.beginCycle k r).readMem e = s.readMem e := rfl
@[simp] theorem beginCycle_pixel (s : State) (k : BitVec 16) (r : Byte) (cx cy : Nat) :
    (s.beginCycle k r).pixel cx cy = s.pixel cx cy := rfl

/-! ## endCycle -/

@[simp] theorem endCycle_v (s : State) : s.endCycle.v = s.v := rfl
@[simp] theorem endCycle_i (s : State) : s.endCycle.i = s.i := rfl
@[simp] theorem endCycle_pc (s : State) : s.endCycle.pc = s.pc := rfl
@[simp] theorem endCycle_stack (s : State) : s.endCycle.stack = s.stack := rfl
@[simp] theorem endCycle_sp (s : State) : s.endCycle.sp = s.sp := rfl
@[simp] theorem endCycle_dt (s : State) : s.endCycle.dt = s.dt := rfl
@[simp] theorem endCycle_st (s : State) : s.endCycle.st = s.st := rfl
@[simp] theorem endCycle_fb (s : State) : s.endCycle.fb = s.fb := rfl
@[simp] theorem endCycle_mem (s : State) : s.endCycle.mem = s.mem := rfl
@[simp] theorem endCycle_mode (s : State) : s.endCycle.mode = s.mode := rfl
@[simp] theorem endCycle_fault (s : State) : s.endCycle.fault = s.fault := rfl
@[simp] theorem endCycle_loadTruncated (s : State) : s.endCycle.loadTruncated = s.loadTruncated := rfl
@[simp] theorem endCycle_cfg (s : State) : s.endCycle.cfg = s.cfg := rfl
@[simp] theorem endCycle_keys (s : State) : s.endCycle.keys = 0#16 := rfl
@[simp] theorem endCycle_rnd (s : State) : s.endCycle.rnd = 0#8 := rfl
@[simp] theorem endCycle_outcome (s : State) : s.endCycle.outcome = s.outcome := rfl
@[simp] theorem endCycle_diag (s : State) : s.endCycle.diag = s.diag := rfl
@[simp] theorem endCycle_pending (s : State) : s.endCycle.pending = s.pending := rfl
@[simp] theorem endCycle_readReg (s : State) (y : Nibble) :
    s.endCycle.readReg y = s.readReg y := rfl
@[simp] theorem endCycle_readMem (s : State) (e : Nat) :
    s.endCycle.readMem e = s.readMem e := rfl
@[simp] theorem endCycle_pixel (s : State) (cx cy : Nat) :
    s.endCycle.pixel cx cy = s.pixel cx cy := rfl

/-! ## finishCycle -/

@[simp] theorem finishCycle_next (s : State) : finishCycle (.next s) = .next s.endCycle := rfl

/-- A Cycle that ends in `t` is one whose answer was some `u`, its inputs gone (R40). -/
theorem finishCycle_eq_next {a : Answer} {t : State} (h : finishCycle a = .next t) :
    ∃ u, a = .next u ∧ t = u.endCycle := by
  cases a with
  | next u => exact ⟨u, rfl, (Host.Outcome.next.inj h).symm⟩
  | fault r => cases h
  | refused r => cases h

/-! ## writeMem -/

@[simp] theorem writeMem_v (s : State) (c : List Host.Cell) : (s.writeMem c).v = s.v := rfl
@[simp] theorem writeMem_i (s : State) (c : List Host.Cell) : (s.writeMem c).i = s.i := rfl
@[simp] theorem writeMem_pc (s : State) (c : List Host.Cell) : (s.writeMem c).pc = s.pc := rfl
@[simp] theorem writeMem_stack (s : State) (c : List Host.Cell) : (s.writeMem c).stack = s.stack := rfl
@[simp] theorem writeMem_sp (s : State) (c : List Host.Cell) : (s.writeMem c).sp = s.sp := rfl
@[simp] theorem writeMem_dt (s : State) (c : List Host.Cell) : (s.writeMem c).dt = s.dt := rfl
@[simp] theorem writeMem_st (s : State) (c : List Host.Cell) : (s.writeMem c).st = s.st := rfl
@[simp] theorem writeMem_fb (s : State) (c : List Host.Cell) : (s.writeMem c).fb = s.fb := rfl
@[simp] theorem writeMem_mem (s : State) (c : List Host.Cell) : (s.writeMem c).mem = Memory.writeAll s.cfg c s.mem := rfl
@[simp] theorem writeMem_mode (s : State) (c : List Host.Cell) : (s.writeMem c).mode = s.mode := rfl
@[simp] theorem writeMem_fault (s : State) (c : List Host.Cell) : (s.writeMem c).fault = s.fault := rfl
@[simp] theorem writeMem_loadTruncated (s : State) (c : List Host.Cell) : (s.writeMem c).loadTruncated = s.loadTruncated := rfl
@[simp] theorem writeMem_cfg (s : State) (c : List Host.Cell) : (s.writeMem c).cfg = s.cfg := rfl
@[simp] theorem writeMem_keys (s : State) (c : List Host.Cell) : (s.writeMem c).keys = s.keys := rfl
@[simp] theorem writeMem_rnd (s : State) (c : List Host.Cell) : (s.writeMem c).rnd = s.rnd := rfl
@[simp] theorem writeMem_outcome (s : State) (c : List Host.Cell) : (s.writeMem c).outcome = s.outcome := rfl
@[simp] theorem writeMem_diag (s : State) (c : List Host.Cell) : (s.writeMem c).diag = s.diag := rfl
@[simp] theorem writeMem_pending (s : State) (c : List Host.Cell) : (s.writeMem c).pending = s.pending := rfl
@[simp] theorem writeMem_readReg (s : State) (c : List Host.Cell) (y : Nibble) :
    (s.writeMem c).readReg y = s.readReg y := rfl
@[simp] theorem writeMem_pixel (s : State) (c : List Host.Cell) (cx cy : Nat) :
    (s.writeMem c).pixel cx cy = s.pixel cx cy := rfl

/-! ## writeReg -/

@[simp] theorem writeReg_i (s : State) (x : Nibble) (b : Byte) : (s.writeReg x b).i = s.i := rfl
@[simp] theorem writeReg_pc (s : State) (x : Nibble) (b : Byte) : (s.writeReg x b).pc = s.pc := rfl
@[simp] theorem writeReg_stack (s : State) (x : Nibble) (b : Byte) : (s.writeReg x b).stack = s.stack := rfl
@[simp] theorem writeReg_sp (s : State) (x : Nibble) (b : Byte) : (s.writeReg x b).sp = s.sp := rfl
@[simp] theorem writeReg_dt (s : State) (x : Nibble) (b : Byte) : (s.writeReg x b).dt = s.dt := rfl
@[simp] theorem writeReg_st (s : State) (x : Nibble) (b : Byte) : (s.writeReg x b).st = s.st := rfl
@[simp] theorem writeReg_fb (s : State) (x : Nibble) (b : Byte) : (s.writeReg x b).fb = s.fb := rfl
@[simp] theorem writeReg_mem (s : State) (x : Nibble) (b : Byte) : (s.writeReg x b).mem = s.mem := rfl
@[simp] theorem writeReg_mode (s : State) (x : Nibble) (b : Byte) : (s.writeReg x b).mode = s.mode := rfl
@[simp] theorem writeReg_fault (s : State) (x : Nibble) (b : Byte) : (s.writeReg x b).fault = s.fault := rfl
@[simp] theorem writeReg_loadTruncated (s : State) (x : Nibble) (b : Byte) : (s.writeReg x b).loadTruncated = s.loadTruncated := rfl
@[simp] theorem writeReg_cfg (s : State) (x : Nibble) (b : Byte) : (s.writeReg x b).cfg = s.cfg := rfl
@[simp] theorem writeReg_keys (s : State) (x : Nibble) (b : Byte) : (s.writeReg x b).keys = s.keys := rfl
@[simp] theorem writeReg_rnd (s : State) (x : Nibble) (b : Byte) : (s.writeReg x b).rnd = s.rnd := rfl
@[simp] theorem writeReg_outcome (s : State) (x : Nibble) (b : Byte) : (s.writeReg x b).outcome = s.outcome := rfl
@[simp] theorem writeReg_diag (s : State) (x : Nibble) (b : Byte) : (s.writeReg x b).diag = s.diag := rfl
@[simp] theorem writeReg_pending (s : State) (x : Nibble) (b : Byte) : (s.writeReg x b).pending = s.pending := rfl
@[simp] theorem writeReg_readMem (s : State) (x : Nibble) (b : Byte) (e : Nat) :
    (s.writeReg x b).readMem e = s.readMem e := rfl
@[simp] theorem writeReg_pixel (s : State) (x : Nibble) (b : Byte) (cx cy : Nat) :
    (s.writeReg x b).pixel cx cy = s.pixel cx cy := rfl

/-! ## writeFlag -/

@[simp] theorem writeFlag_i (s : State) (f : Bool) : (s.writeFlag f).i = s.i := rfl
@[simp] theorem writeFlag_pc (s : State) (f : Bool) : (s.writeFlag f).pc = s.pc := rfl
@[simp] theorem writeFlag_stack (s : State) (f : Bool) : (s.writeFlag f).stack = s.stack := rfl
@[simp] theorem writeFlag_sp (s : State) (f : Bool) : (s.writeFlag f).sp = s.sp := rfl
@[simp] theorem writeFlag_dt (s : State) (f : Bool) : (s.writeFlag f).dt = s.dt := rfl
@[simp] theorem writeFlag_st (s : State) (f : Bool) : (s.writeFlag f).st = s.st := rfl
@[simp] theorem writeFlag_fb (s : State) (f : Bool) : (s.writeFlag f).fb = s.fb := rfl
@[simp] theorem writeFlag_mem (s : State) (f : Bool) : (s.writeFlag f).mem = s.mem := rfl
@[simp] theorem writeFlag_mode (s : State) (f : Bool) : (s.writeFlag f).mode = s.mode := rfl
@[simp] theorem writeFlag_fault (s : State) (f : Bool) : (s.writeFlag f).fault = s.fault := rfl
@[simp] theorem writeFlag_loadTruncated (s : State) (f : Bool) : (s.writeFlag f).loadTruncated = s.loadTruncated := rfl
@[simp] theorem writeFlag_cfg (s : State) (f : Bool) : (s.writeFlag f).cfg = s.cfg := rfl
@[simp] theorem writeFlag_keys (s : State) (f : Bool) : (s.writeFlag f).keys = s.keys := rfl
@[simp] theorem writeFlag_rnd (s : State) (f : Bool) : (s.writeFlag f).rnd = s.rnd := rfl
@[simp] theorem writeFlag_outcome (s : State) (f : Bool) : (s.writeFlag f).outcome = s.outcome := rfl
@[simp] theorem writeFlag_diag (s : State) (f : Bool) : (s.writeFlag f).diag = s.diag := rfl
@[simp] theorem writeFlag_pending (s : State) (f : Bool) : (s.writeFlag f).pending = s.pending := rfl
@[simp] theorem writeFlag_readMem (s : State) (f : Bool) (e : Nat) :
    (s.writeFlag f).readMem e = s.readMem e := rfl
@[simp] theorem writeFlag_pixel (s : State) (f : Bool) (cx cy : Nat) :
    (s.writeFlag f).pixel cx cy = s.pixel cx cy := rfl

/-! ## writeResultFlag -/

@[simp] theorem writeResultFlag_i (s : State) (x : Nibble) (b : Byte) (f : Bool) : (s.writeResultFlag x b f).i = s.i := rfl
@[simp] theorem writeResultFlag_pc (s : State) (x : Nibble) (b : Byte) (f : Bool) : (s.writeResultFlag x b f).pc = s.pc := rfl
@[simp] theorem writeResultFlag_stack (s : State) (x : Nibble) (b : Byte) (f : Bool) : (s.writeResultFlag x b f).stack = s.stack := rfl
@[simp] theorem writeResultFlag_sp (s : State) (x : Nibble) (b : Byte) (f : Bool) : (s.writeResultFlag x b f).sp = s.sp := rfl
@[simp] theorem writeResultFlag_dt (s : State) (x : Nibble) (b : Byte) (f : Bool) : (s.writeResultFlag x b f).dt = s.dt := rfl
@[simp] theorem writeResultFlag_st (s : State) (x : Nibble) (b : Byte) (f : Bool) : (s.writeResultFlag x b f).st = s.st := rfl
@[simp] theorem writeResultFlag_fb (s : State) (x : Nibble) (b : Byte) (f : Bool) : (s.writeResultFlag x b f).fb = s.fb := rfl
@[simp] theorem writeResultFlag_mem (s : State) (x : Nibble) (b : Byte) (f : Bool) : (s.writeResultFlag x b f).mem = s.mem := rfl
@[simp] theorem writeResultFlag_mode (s : State) (x : Nibble) (b : Byte) (f : Bool) : (s.writeResultFlag x b f).mode = s.mode := rfl
@[simp] theorem writeResultFlag_fault (s : State) (x : Nibble) (b : Byte) (f : Bool) : (s.writeResultFlag x b f).fault = s.fault := rfl
@[simp] theorem writeResultFlag_loadTruncated (s : State) (x : Nibble) (b : Byte) (f : Bool) : (s.writeResultFlag x b f).loadTruncated = s.loadTruncated := rfl
@[simp] theorem writeResultFlag_cfg (s : State) (x : Nibble) (b : Byte) (f : Bool) : (s.writeResultFlag x b f).cfg = s.cfg := rfl
@[simp] theorem writeResultFlag_keys (s : State) (x : Nibble) (b : Byte) (f : Bool) : (s.writeResultFlag x b f).keys = s.keys := rfl
@[simp] theorem writeResultFlag_rnd (s : State) (x : Nibble) (b : Byte) (f : Bool) : (s.writeResultFlag x b f).rnd = s.rnd := rfl
@[simp] theorem writeResultFlag_outcome (s : State) (x : Nibble) (b : Byte) (f : Bool) : (s.writeResultFlag x b f).outcome = s.outcome := rfl
@[simp] theorem writeResultFlag_diag (s : State) (x : Nibble) (b : Byte) (f : Bool) : (s.writeResultFlag x b f).diag = s.diag := rfl
@[simp] theorem writeResultFlag_pending (s : State) (x : Nibble) (b : Byte) (f : Bool) : (s.writeResultFlag x b f).pending = s.pending := rfl
@[simp] theorem writeResultFlag_readMem (s : State) (x : Nibble) (b : Byte) (f : Bool) (e : Nat) :
    (s.writeResultFlag x b f).readMem e = s.readMem e := rfl
@[simp] theorem writeResultFlag_pixel (s : State) (x : Nibble) (b : Byte) (f : Bool) (cx cy : Nat) :
    (s.writeResultFlag x b f).pixel cx cy = s.pixel cx cy := rfl

/-! ## setPending -/

@[simp] theorem setPending_v (s : State) (l : List Transaction) : (s.setPending l).v = s.v := rfl
@[simp] theorem setPending_i (s : State) (l : List Transaction) : (s.setPending l).i = s.i := rfl
@[simp] theorem setPending_pc (s : State) (l : List Transaction) : (s.setPending l).pc = s.pc := rfl
@[simp] theorem setPending_stack (s : State) (l : List Transaction) : (s.setPending l).stack = s.stack := rfl
@[simp] theorem setPending_sp (s : State) (l : List Transaction) : (s.setPending l).sp = s.sp := rfl
@[simp] theorem setPending_dt (s : State) (l : List Transaction) : (s.setPending l).dt = s.dt := rfl
@[simp] theorem setPending_st (s : State) (l : List Transaction) : (s.setPending l).st = s.st := rfl
@[simp] theorem setPending_fb (s : State) (l : List Transaction) : (s.setPending l).fb = s.fb := rfl
@[simp] theorem setPending_mem (s : State) (l : List Transaction) : (s.setPending l).mem = s.mem := rfl
@[simp] theorem setPending_mode (s : State) (l : List Transaction) : (s.setPending l).mode = s.mode := rfl
@[simp] theorem setPending_fault (s : State) (l : List Transaction) : (s.setPending l).fault = s.fault := rfl
@[simp] theorem setPending_loadTruncated (s : State) (l : List Transaction) : (s.setPending l).loadTruncated = s.loadTruncated := rfl
@[simp] theorem setPending_cfg (s : State) (l : List Transaction) : (s.setPending l).cfg = s.cfg := rfl
@[simp] theorem setPending_keys (s : State) (l : List Transaction) : (s.setPending l).keys = s.keys := rfl
@[simp] theorem setPending_rnd (s : State) (l : List Transaction) : (s.setPending l).rnd = s.rnd := rfl
@[simp] theorem setPending_outcome (s : State) (l : List Transaction) : (s.setPending l).outcome = s.outcome := rfl
@[simp] theorem setPending_diag (s : State) (l : List Transaction) : (s.setPending l).diag = s.diag := rfl
@[simp] theorem setPending_pending (s : State) (l : List Transaction) : (s.setPending l).pending = l := rfl
@[simp] theorem setPending_readReg (s : State) (l : List Transaction) (y : Nibble) :
    (s.setPending l).readReg y = s.readReg y := rfl
@[simp] theorem setPending_readMem (s : State) (l : List Transaction) (e : Nat) :
    (s.setPending l).readMem e = s.readMem e := rfl
@[simp] theorem setPending_pixel (s : State) (l : List Transaction) (cx cy : Nat) :
    (s.setPending l).pixel cx cy = s.pixel cx cy := rfl

/-! ## takeFault -/

@[simp] theorem takeFault_v (s : State) (r : FaultRecord) : (takeFault r s).v = s.v := rfl
@[simp] theorem takeFault_i (s : State) (r : FaultRecord) : (takeFault r s).i = s.i := rfl
@[simp] theorem takeFault_pc (s : State) (r : FaultRecord) : (takeFault r s).pc = r.pc := rfl
@[simp] theorem takeFault_stack (s : State) (r : FaultRecord) : (takeFault r s).stack = s.stack := rfl
@[simp] theorem takeFault_sp (s : State) (r : FaultRecord) : (takeFault r s).sp = s.sp := rfl
@[simp] theorem takeFault_dt (s : State) (r : FaultRecord) : (takeFault r s).dt = s.dt := rfl
@[simp] theorem takeFault_st (s : State) (r : FaultRecord) : (takeFault r s).st = s.st := rfl
@[simp] theorem takeFault_fb (s : State) (r : FaultRecord) : (takeFault r s).fb = s.fb := rfl
@[simp] theorem takeFault_mem (s : State) (r : FaultRecord) : (takeFault r s).mem = s.mem := rfl
@[simp] theorem takeFault_mode (s : State) (r : FaultRecord) : (takeFault r s).mode = .halted := rfl
@[simp] theorem takeFault_fault (s : State) (r : FaultRecord) : (takeFault r s).fault = some r := rfl
@[simp] theorem takeFault_loadTruncated (s : State) (r : FaultRecord) : (takeFault r s).loadTruncated = s.loadTruncated := rfl
@[simp] theorem takeFault_cfg (s : State) (r : FaultRecord) : (takeFault r s).cfg = s.cfg := rfl
@[simp] theorem takeFault_keys (s : State) (r : FaultRecord) : (takeFault r s).keys = s.keys := rfl
@[simp] theorem takeFault_rnd (s : State) (r : FaultRecord) : (takeFault r s).rnd = s.rnd := rfl
@[simp] theorem takeFault_outcome (s : State) (r : FaultRecord) : (takeFault r s).outcome = some (.faulted r) := rfl
@[simp] theorem takeFault_diag (s : State) (r : FaultRecord) : (takeFault r s).diag = s.diag := rfl
@[simp] theorem takeFault_pending (s : State) (r : FaultRecord) : (takeFault r s).pending = s.pending := rfl
@[simp] theorem takeFault_readReg (s : State) (r : FaultRecord) (y : Nibble) :
    (takeFault r s).readReg y = s.readReg y := rfl
@[simp] theorem takeFault_readMem (s : State) (r : FaultRecord) (e : Nat) :
    (takeFault r s).readMem e = s.readMem e := rfl
@[simp] theorem takeFault_pixel (s : State) (r : FaultRecord) (cx cy : Nat) :
    (takeFault r s).pixel cx cy = s.pixel cx cy := rfl

/-! ## skipIf -/

@[simp] theorem skipIf_v (s : State) (b : Bool) : (s.skipIf b).v = s.v := by cases b <;> rfl
@[simp] theorem skipIf_i (s : State) (b : Bool) : (s.skipIf b).i = s.i := by cases b <;> rfl
@[simp] theorem skipIf_pc (s : State) (b : Bool) :
    (s.skipIf b).pc = if b then s.pc + 2#16 else s.pc := by cases b <;> rfl
@[simp] theorem skipIf_stack (s : State) (b : Bool) : (s.skipIf b).stack = s.stack := by cases b <;> rfl
@[simp] theorem skipIf_sp (s : State) (b : Bool) : (s.skipIf b).sp = s.sp := by cases b <;> rfl
@[simp] theorem skipIf_dt (s : State) (b : Bool) : (s.skipIf b).dt = s.dt := by cases b <;> rfl
@[simp] theorem skipIf_st (s : State) (b : Bool) : (s.skipIf b).st = s.st := by cases b <;> rfl
@[simp] theorem skipIf_fb (s : State) (b : Bool) : (s.skipIf b).fb = s.fb := by cases b <;> rfl
@[simp] theorem skipIf_mem (s : State) (b : Bool) : (s.skipIf b).mem = s.mem := by cases b <;> rfl
@[simp] theorem skipIf_mode (s : State) (b : Bool) : (s.skipIf b).mode = s.mode := by cases b <;> rfl
@[simp] theorem skipIf_fault (s : State) (b : Bool) : (s.skipIf b).fault = s.fault := by cases b <;> rfl
@[simp] theorem skipIf_loadTruncated (s : State) (b : Bool) : (s.skipIf b).loadTruncated = s.loadTruncated := by cases b <;> rfl
@[simp] theorem skipIf_cfg (s : State) (b : Bool) : (s.skipIf b).cfg = s.cfg := by cases b <;> rfl
@[simp] theorem skipIf_keys (s : State) (b : Bool) : (s.skipIf b).keys = s.keys := by cases b <;> rfl
@[simp] theorem skipIf_rnd (s : State) (b : Bool) : (s.skipIf b).rnd = s.rnd := by cases b <;> rfl
@[simp] theorem skipIf_outcome (s : State) (b : Bool) : (s.skipIf b).outcome = s.outcome := by cases b <;> rfl
@[simp] theorem skipIf_diag (s : State) (b : Bool) : (s.skipIf b).diag = s.diag := by cases b <;> rfl
@[simp] theorem skipIf_pending (s : State) (b : Bool) : (s.skipIf b).pending = s.pending := by cases b <;> rfl
@[simp] theorem skipIf_readReg (s : State) (b : Bool) (y : Nibble) :
    (s.skipIf b).readReg y = s.readReg y := by cases b <;> rfl
@[simp] theorem skipIf_readMem (s : State) (b : Bool) (e : Nat) :
    (s.skipIf b).readMem e = s.readMem e := by cases b <;> rfl
@[simp] theorem skipIf_pixel (s : State) (b : Bool) (cx cy : Nat) :
    (s.skipIf b).pixel cx cy = s.pixel cx cy := by cases b <;> rfl

/-! ## The views through their own updates -/

/-- A register reads back the last value written to it, and no other register changes (R20). -/
@[simp] theorem readReg_writeReg (s : State) (x y : Nibble) (b : Byte) :
    (s.writeReg x b).readReg y = if x = y then b else s.readReg y := by
  simp only [State.readReg, State.writeReg, Vector.getElem_set, BitVec.toNat_inj]

/-- VF takes the flag; every other register stays. -/
@[simp] theorem readReg_writeFlag (s : State) (f : Bool) (y : Nibble) :
    (s.writeFlag f).readReg y = if 0xF#4 = y then flagByte f else s.readReg y := by
  simp [State.writeFlag]

/-- VF holds the flag even when X = F (R101). -/
@[simp] theorem readReg_writeResultFlag (s : State) (x y : Nibble) (b : Byte) (f : Bool) :
    (s.writeResultFlag x b f).readReg y
      = if 0xF#4 = y then flagByte f else if x = y then b else s.readReg y := by
  simp [State.writeResultFlag]

@[simp] theorem setFb_pixel (s : State) (d : Vector (BitVec 64) 32) (cx cy : Nat) :
    (s.setFb d).pixel cx cy = pixelAt d cx cy := rfl

@[simp] theorem setMem_readMem (s : State) (m : Memory) (e : Nat) :
    (s.setMem m).readMem e = Memory.read s.cfg m e := rfl

@[simp] theorem writeMem_readMem (s : State) (c : List Host.Cell) (e : Nat) :
    (s.writeMem c).readMem e = Memory.read s.cfg (Memory.writeAll s.cfg c s.mem) e := rfl

end Sys2Proof.Machine
end

