-- ==== Sys2Proof/Laws/Memory.lean ====
section
/-! SUPPORT. The laws of memory: a read after a write, the canonical form kept by every operation, and
what a sequence of writes leaves. -/

namespace Sys2Proof.Machine

@[simp] theorem memSize_eq : memSize = 4096 := rfl
@[simp] theorem maxImage_eq : maxImage = 3584 := rfl
@[simp] theorem loadAddr_eq : loadAddr = 512 := rfl
@[simp] theorem fontSize_eq : fontSize = 80 := rfl
@[simp] theorem displayWidth_eq : displayWidth = 64 := rfl
@[simp] theorem displayHeight_eq : displayHeight = 32 := rfl

/-! ## The canonical form -/

theorem Memory.wfFrom_cons (c : Config) (lo a : Nat) (w : Byte) (m : Memory) :
    Memory.wfFrom c lo ((a, w) :: m) = true ↔
      lo ≤ a ∧ a < 4096 ∧ w ≠ resetByte c a ∧ Memory.wfFrom c (a + 1) m = true := by
  simp only [Memory.wfFrom, Bool.and_eq_true, decide_eq_true_eq, bne_iff_ne, ne_eq, and_assoc]

theorem Memory.wfFrom_mono (c : Config) {lo hi : Nat} (h : lo ≤ hi) {m : Memory}
    (hm : Memory.wfFrom c hi m = true) : Memory.wfFrom c lo m = true := by
  cases m with
  | nil => rfl
  | cons x rest =>
    obtain ⟨h1, h2, h3, h4⟩ := (Memory.wfFrom_cons c hi x.1 x.2 rest).1 hm
    exact (Memory.wfFrom_cons c lo x.1 x.2 rest).2 ⟨by omega, h2, h3, h4⟩

/-- A byte below every listed address holds the reset contents. -/
theorem Memory.read_below (c : Config) {lo a : Nat} (h : a < lo) :
    ∀ {m : Memory}, Memory.wfFrom c lo m = true → Memory.read c m a = resetByte c a
  | [], _ => rfl
  | (b, w) :: rest, hm => by
    obtain ⟨h1, -, -, h4⟩ := (Memory.wfFrom_cons c lo b w rest).1 hm
    have hne : ¬ b = a := by omega
    simp only [Memory.read, hne, if_false]
    exact Memory.read_below c (by omega) h4

/-! ## One write -/

theorem Memory.read_cons_self (c : Config) (a : Nat) (w : Byte) {m : Memory}
    (h : Memory.read c m a = resetByte c a) : Memory.read c (Memory.cons c a w m) a = w := by
  unfold Memory.cons
  split
  · rw [h]; exact Eq.symm ‹_›
  · simp [Memory.read]

theorem Memory.read_cons_other (c : Config) {a e : Nat} (h : a ≠ e) (w : Byte) (m : Memory) :
    Memory.read c (Memory.cons c a w m) e = Memory.read c m e := by
  unfold Memory.cons
  split
  · rfl
  · simp [Memory.read, h]

/-- A write leaves every other byte alone, in every memory. -/
theorem Memory.read_write_other (c : Config) {a e : Nat} (h : a ≠ e) (w : Byte) :
    ∀ m : Memory, Memory.read c (Memory.write c a w m) e = Memory.read c m e
  | [] => Memory.read_cons_other c h w []
  | (b, u) :: rest => by
    unfold Memory.write
    split
    · subst b
      rw [Memory.read_cons_other c h]
      simp [Memory.read, h]
    · split
      · exact Memory.read_cons_other c h w _
      · simp only [Memory.read, Memory.read_write_other c h w rest]

/-- A read after a write to the same place gives the value written, in a canonical memory. -/
theorem Memory.read_write_self (c : Config) (a : Nat) (w : Byte) :
    ∀ {lo : Nat} {m : Memory}, Memory.wfFrom c lo m = true →
      Memory.read c (Memory.write c a w m) a = w
  | _, [], _ => Memory.read_cons_self c a w rfl
  | lo, (b, u) :: rest, hm => by
    obtain ⟨-, -, -, h4⟩ := (Memory.wfFrom_cons c lo b u rest).1 hm
    unfold Memory.write
    split
    · subst b
      exact Memory.read_cons_self c a w (Memory.read_below c (by omega) h4)
    · split
      · refine Memory.read_cons_self c a w ?_
        simp only [Memory.read, if_neg (show ¬ b = a by omega)]
        exact Memory.read_below c (by omega) h4
      · simp only [Memory.read, if_neg (show ¬ b = a by omega)]
        exact Memory.read_write_self c a w h4

theorem Memory.cons_wfFrom (c : Config) {lo a : Nat} (hlo : lo ≤ a) (ha : a < 4096) (w : Byte)
    {m : Memory} (hm : Memory.wfFrom c (a + 1) m = true) :
    Memory.wfFrom c lo (Memory.cons c a w m) = true := by
  unfold Memory.cons
  split
  · exact Memory.wfFrom_mono c (by omega) hm
  · exact (Memory.wfFrom_cons c lo a w m).2 ⟨hlo, ha, ‹_›, hm⟩

theorem Memory.write_wfFrom (c : Config) {a : Nat} (ha : a < 4096) (w : Byte) :
    ∀ {lo : Nat} {m : Memory}, lo ≤ a → Memory.wfFrom c lo m = true →
      Memory.wfFrom c lo (Memory.write c a w m) = true
  | _, [], hlo, _ => Memory.cons_wfFrom c hlo ha w rfl
  | lo, (b, u) :: rest, hlo, hm => by
    obtain ⟨h1, h2, h3, h4⟩ := (Memory.wfFrom_cons c lo b u rest).1 hm
    unfold Memory.write
    split
    · subst b; exact Memory.cons_wfFrom c hlo ha w h4
    · split
      · refine Memory.cons_wfFrom c hlo ha w ?_
        exact (Memory.wfFrom_cons c (a + 1) b u rest).2 ⟨by omega, h2, h3, h4⟩
      · exact (Memory.wfFrom_cons c lo b u _).2
          ⟨h1, h2, h3, Memory.write_wfFrom c ha w (by omega) h4⟩

/-- A write inside the address space keeps the canonical form. -/
theorem Memory.write_wf (c : Config) {a : Nat} (ha : a < 4096) (w : Byte) {m : Memory}
    (hm : Memory.wf c m = true) : Memory.wf c (Memory.write c a w m) = true :=
  Memory.write_wfFrom c ha w (Nat.zero_le a) hm

/-! ## A sequence of writes -/

/-- The last value a list of writes gives to an address, if any. -/
def lastWrite (e : Nat) : List Host.Cell → Option Byte
  | [] => none
  | (a, w) :: rest => (lastWrite e rest).or (if a = e then some w else none)

theorem Memory.writeAll_wf (c : Config) : ∀ {cells : List Host.Cell} {m : Memory},
    (∀ x ∈ cells, x.1 < 4096) → Memory.wf c m = true → Memory.wf c (Memory.writeAll c cells m) = true
  | [], _, _, hm => hm
  | (a, w) :: rest, m, h, hm => by
    have ha : a < 4096 := h (a, w) (by simp)
    have hw : Memory.wf c (Memory.write c a w m) = true := Memory.write_wf c ha w hm
    simp only [Memory.writeAll]
    exact Memory.writeAll_wf c (fun x hx => h x (by simp [hx])) hw

/-- Bytes that no write of the list names stay, in every memory. -/
theorem Memory.read_writeAll_other (c : Config) {e : Nat} :
    ∀ {cells : List Host.Cell} {m : Memory}, (∀ x ∈ cells, x.1 ≠ e) →
      Memory.read c (Memory.writeAll c cells m) e = Memory.read c m e
  | [], _, _ => rfl
  | (a, w) :: rest, m, h => by
    have ha : a ≠ e := h (a, w) (by simp)
    simp only [Memory.writeAll]
    rw [Memory.read_writeAll_other c (fun x hx => h x (by simp [hx])),
      Memory.read_write_other c ha]

/-- What a byte holds after a list of writes: the last value written to it, else what it held. -/
theorem Memory.read_writeAll (c : Config) {e : Nat} :
    ∀ {cells : List Host.Cell} {m : Memory}, (∀ x ∈ cells, x.1 < 4096) → Memory.wf c m = true →
      Memory.read c (Memory.writeAll c cells m) e
        = (lastWrite e cells).getD (Memory.read c m e)
  | [], _, _, _ => rfl
  | (a, w) :: rest, m, h, hm => by
    have ha : a < 4096 := h (a, w) (by simp)
    simp only [Memory.writeAll]
    rw [Memory.read_writeAll c (fun x hx => h x (by simp [hx])) (Memory.write_wf c ha w hm)]
    by_cases hae : a = e
    · subst a
      have := Memory.read_write_self c e w (lo := 0) hm
      cases hl : lastWrite e rest <;> simp [lastWrite, hl, this]
    · cases hl : lastWrite e rest <;> simp [lastWrite, hl, hae, Memory.read_write_other c hae]

theorem lastWrite_none {e : Nat} : ∀ {cells : List Host.Cell}, (∀ x ∈ cells, x.1 ≠ e) →
    lastWrite e cells = none
  | [], _ => rfl
  | (a, w) :: rest, h => by
    have ha : a ≠ e := h (a, w) (List.mem_cons_self ..)
    have hr : lastWrite e rest = none := lastWrite_none fun x hx => h x (List.mem_cons_of_mem _ hx)
    simp [lastWrite, hr, ha]

/-- The last cell of the list with an address gives the value (R51). -/
theorem lastWrite_getElem {e : Nat} : ∀ {cells : List Host.Cell} {k : Nat} (hk : k < cells.length),
    (cells[k]).1 = e → (∀ j (h : j < cells.length), k < j → (cells[j]).1 ≠ e) →
    lastWrite e cells = some (cells[k]).2
  | [], k, hk, _, _ => by simp at hk
  | (a, w) :: rest, 0, hk, h1, h2 => by
    have hr : lastWrite e rest = none := by
      apply lastWrite_none
      intro x hx
      obtain ⟨j, hj, rfl⟩ := List.getElem_of_mem hx
      exact h2 (j + 1) (Nat.succ_lt_succ hj) (Nat.succ_pos j)
    have ha : a = e := h1
    simp [lastWrite, hr, ha]
  | (a, w) :: rest, k + 1, hk, h1, h2 => by
    have hr := lastWrite_getElem (e := e) (cells := rest) (k := k) (Nat.lt_of_succ_lt_succ hk) h1
      fun j hj hkj => h2 (j + 1) (Nat.succ_lt_succ hj) (Nat.succ_lt_succ hkj)
    simp [lastWrite, hr]

/-! ## The state's memory -/

theorem writeMem_wf (s : State) {cells : List Host.Cell} (h : ∀ x ∈ cells, x.1 < 4096)
    (hm : Memory.wf s.cfg s.mem = true) :
    Memory.wf (s.writeMem cells).cfg (s.writeMem cells).mem = true :=
  Memory.writeAll_wf s.cfg h hm

theorem reset_mem_wf : Memory.wf State.reset.cfg State.reset.mem = true := rfl

end Sys2Proof.Machine
end

