-- ==== Sys2Proof/Laws/Ops.lean ====
section
/-! SUPPORT. One lemma per shared operation, saying everything it can do: address resolution, the call
stack, key scanning, fault entry, the answer of an instruction. -/

namespace Sys2Proof.Machine

/-! ## Resolve (R49) -/

theorem resolve_of_lt (c : Config) {ea : Nat} (h : ea < 4096) : resolve c ea = .ok ea := by
  simp [resolve, h]

/-- Everything Resolve can do. -/
theorem resolve_cases (c : Config) (ea : Nat) :
    (ea < 4096 ∧ resolve c ea = .ok ea) ∨
    (4096 ≤ ea ∧ c.addrMode = .fault ∧
      resolve c ea = .error ⟨.addressOutOfRange, BitVec.ofNat 17 ea⟩) ∨
    (4096 ≤ ea ∧ c.addrMode = .wrap ∧ resolve c ea = .ok (ea % 4096)) ∨
    (4096 ≤ ea ∧ c.addrMode = .clamp ∧ resolve c ea = .ok 4095) := by
  by_cases h : ea < 4096
  · exact .inl ⟨h, resolve_of_lt c h⟩
  · have h' : 4096 ≤ ea := by omega
    cases hm : c.addrMode <;> simp [resolve, h, h', hm]

/-- A resolved address is a memory index. -/
theorem resolve_lt {c : Config} {ea a : Nat} (h : resolve c ea = .ok a) : a < 4096 := by
  rcases resolve_cases c ea with ⟨h1, h2⟩ | ⟨-, -, h2⟩ | ⟨-, -, h2⟩ | ⟨-, -, h2⟩ <;>
    rw [h2] at h <;> simp at h <;> omega

/-- A resolution that fails is an address at or above MEM_SIZE under ADDR_MODE = Fault. -/
theorem resolve_error {c : Config} {ea : Nat} {r : Raise} (h : resolve c ea = .error r) :
    4096 ≤ ea ∧ c.addrMode = .fault ∧ r = ⟨.addressOutOfRange, BitVec.ofNat 17 ea⟩ := by
  rcases resolve_cases c ea with ⟨-, h2⟩ | ⟨h1, h2, h3⟩ | ⟨-, -, h2⟩ | ⟨-, -, h2⟩ <;> simp_all

theorem resolveRange_succ (c : Config) (ea n : Nat) :
    resolveRange c ea (n + 1) =
      match resolve c ea with
      | .error r => .error r
      | .ok a =>
        match resolveRange c (ea + 1) n with
        | .error r => .error r
        | .ok rest => .ok (a :: rest) := rfl

/-- A range that resolves gives, for each offset, the address that offset resolves to. -/
theorem resolveRange_ok {c : Config} : ∀ {n ea : Nat} {l : List Nat}, resolveRange c ea n = .ok l →
    l.length = n ∧ ∀ k (h : k < l.length), resolve c (ea + k) = .ok l[k]
  | 0, ea, l, h => by
    simp only [resolveRange, Except.ok.injEq] at h
    subst h
    simp
  | n + 1, ea, l, h => by
    rw [resolveRange_succ] at h
    split at h
    · cases h
    · rename_i a ha
      split at h
      · cases h
      · rename_i rest hr
        cases h
        obtain ⟨h1, h2⟩ := resolveRange_ok hr
        refine ⟨by simp [h1], ?_⟩
        intro k hk
        cases k with
        | zero => simpa using ha
        | succ k =>
          have := h2 k (by simpa using hk)
          simpa [Nat.add_assoc, Nat.add_comm 1 k] using this

/-- A range resolves when each of its addresses does. -/
theorem resolveRange_of_all {c : Config} : ∀ {n ea : Nat},
    (∀ k < n, ∃ a, resolve c (ea + k) = .ok a) → ∃ l, resolveRange c ea n = .ok l
  | 0, _, _ => ⟨[], rfl⟩
  | n + 1, ea, h => by
    obtain ⟨a, ha⟩ := h 0 (by omega)
    obtain ⟨rest, hr⟩ := resolveRange_of_all (c := c) (n := n) (ea := ea + 1) (by
      intro k hk
      obtain ⟨b, hb⟩ := h (k + 1) (by omega)
      exact ⟨b, by simpa [Nat.add_assoc, Nat.add_comm 1 k] using hb⟩)
    refine ⟨a :: rest, ?_⟩
    rw [resolveRange_succ]
    simp only [Nat.add_zero] at ha
    simp [ha, hr]

/-- A range that fails reports its first failing offset (R50). -/
theorem resolveRange_error {c : Config} : ∀ {n ea : Nat} {r : Raise},
    resolveRange c ea n = .error r →
    ∃ k < n, resolve c (ea + k) = .error r ∧ ∀ j < k, ∃ a, resolve c (ea + j) = .ok a
  | 0, _, _, h => by simp [resolveRange] at h
  | n + 1, ea, r, h => by
    rw [resolveRange_succ] at h
    split at h
    · rename_i r' hr
      cases h
      exact ⟨0, by omega, by simpa using hr, by intro j hj; omega⟩
    · rename_i a ha
      split at h
      · rename_i r' hr
        cases h
        obtain ⟨k, hk, h1, h2⟩ := resolveRange_error hr
        refine ⟨k + 1, by omega, by simpa [Nat.add_assoc, Nat.add_comm 1 k] using h1, ?_⟩
        intro j hj
        cases j with
        | zero => exact ⟨a, by simpa using ha⟩
        | succ j =>
          obtain ⟨b, hb⟩ := h2 j (by omega)
          exact ⟨b, by simpa [Nat.add_assoc, Nat.add_comm 1 j] using hb⟩
      · cases h

/-- Every address of a resolved range is a memory index. -/
theorem resolveRange_lt {c : Config} {n ea : Nat} {l : List Nat} (h : resolveRange c ea n = .ok l) :
    ∀ a ∈ l, a < 4096 := by
  obtain ⟨-, h2⟩ := resolveRange_ok h
  intro a ha
  obtain ⟨k, hk, rfl⟩ := List.getElem_of_mem ha
  exact resolve_lt (h2 k hk)

theorem zip_fst_lt {l : List Nat} {bs : List Byte} (h : ∀ a ∈ l, a < 4096) :
    ∀ x ∈ l.zip bs, x.1 < 4096 := fun _ hx => h _ (List.of_mem_zip hx).1

/-! ## The call stack (R28) -/

/-- Everything Push can do. -/
theorem push_cases (a : Word) (s : State) :
    (s.sp.val = 16 ∧ s.push a = .error ⟨.stackOverflow, 0#17⟩) ∨
    (∃ h : s.sp.val < 16, s.push a
      = .ok (s.setStack (s.stack.set s.sp.val a h) ⟨s.sp.val + 1, by omega⟩)) := by
  by_cases h : s.sp.val < 16
  · exact .inr ⟨h, by simp [State.push, h]⟩
  · exact .inl ⟨by have := s.sp.isLt; omega, by simp [State.push, h]⟩

/-- Everything Pop can do. -/
theorem pop_cases (s : State) :
    (s.sp.val = 0 ∧ s.pop = .error ⟨.stackUnderflow, 0#17⟩) ∨
    (∃ h : 0 < s.sp.val, s.pop
      = .ok (s.stack[s.sp.val - 1]'(by have := s.sp.isLt; omega),
          s.setStack s.stack ⟨s.sp.val - 1, by have := s.sp.isLt; omega⟩)) := by
  by_cases h : 0 < s.sp.val
  · exact .inr ⟨h, by simp [State.pop, h]⟩
  · exact .inl ⟨by omega, by simp [State.pop, h]⟩

/-! ## Keys (R129, R132) -/

/-- Everything KeyIndex can do. -/
theorem keyIndex_cases (c : Config) (v : Byte) :
    (v.toNat ≤ 15 ∧ keyIndex c v = .ok (v.setWidth 4)) ∨
    (15 < v.toNat ∧ c.keyIndexMode = .fault ∧
      keyIndex c v = .error ⟨.keyIndexOutOfRange, v.setWidth 17⟩) ∨
    (15 < v.toNat ∧ c.keyIndexMode = .lowNibble ∧ keyIndex c v = .ok (v.setWidth 4)) := by
  by_cases h : v.toNat ≤ 15
  · exact .inl ⟨h, by simp [keyIndex, h]⟩
  · have h' : 15 < v.toNat := by omega
    cases hm : c.keyIndexMode <;> simp [keyIndex, h, h', hm]

theorem scanKeys_none {keys : BitVec 16} : ∀ {n k : Nat}, scanKeys keys k n = none →
    ∀ j, k ≤ j → j < k + n → keys.getLsbD j = false
  | 0, _, _ => by intro j h1 h2; omega
  | n + 1, k, h => by
    unfold scanKeys at h
    split at h
    · cases h
    · rename_i hk
      intro j h1 h2
      by_cases hj : j = k
      · subst hj; simpa using hk
      · exact scanKeys_none h j (by omega) (by omega)

theorem scanKeys_some {keys : BitVec 16} {r : Nibble} : ∀ {n k : Nat}, k + n ≤ 16 →
    scanKeys keys k n = some r →
    k ≤ r.toNat ∧ keys.getLsbD r.toNat = true ∧
      ∀ j, k ≤ j → j < r.toNat → keys.getLsbD j = false
  | 0, _, _, h => by simp [scanKeys] at h
  | n + 1, k, hn, h => by
    unfold scanKeys at h
    split at h
    · rename_i hk
      cases h
      have : (BitVec.ofNat 4 k).toNat = k := by simp; omega
      exact ⟨by omega, by rw [this]; exact hk, by intro j h1 h2; omega⟩
    · rename_i hk
      obtain ⟨h1, h2, h3⟩ := scanKeys_some (by omega) h
      refine ⟨by omega, h2, ?_⟩
      intro j h4 h5
      by_cases hj : j = k
      · subst hj; simpa using hk
      · exact h3 j (by omega) h5

/-- No key is latched exactly when none is pressed. -/
theorem lowestKey_none {keys : BitVec 16} : lowestKey keys = none ↔ keys = 0#16 := by
  constructor
  · intro h
    apply BitVec.eq_of_getLsbD_eq
    intro j hj
    simpa using scanKeys_none h j (by omega) (by omega)
  · rintro rfl; rfl

/-- The key latched is pressed, and no key below it is. -/
theorem lowestKey_some {keys : BitVec 16} {k : Nibble} (h : lowestKey keys = some k) :
    keyPressed keys k = true ∧ ∀ j < k.toNat, keys.getLsbD j = false := by
  obtain ⟨-, h2, h3⟩ := scanKeys_some (by omega) h
  exact ⟨h2, fun j hj => h3 j (by omega) hj⟩

/-! ## Answers -/

@[simp] theorem retire_eq (s : State) : retire s = .next (s.report .executed) := rfl

/-- An instruction's answer is always a next state: its completed state or fault entry. -/
theorem answer_cases (i : Instr) (s : State) (e : Except Raise State) :
    (∃ t, e = .ok t ∧ answer i s e = .next (t.report .executed)) ∨
    (∃ r, e = .error r ∧ answer i s e = .next (instrFault i r s)) := by
  cases e with
  | ok t => exact .inl ⟨t, rfl, rfl⟩
  | error r => exact .inr ⟨r, rfl, rfl⟩

/-- Fault entry of an instruction changes only pc, fault, mode and outcome (R139). -/
theorem instrFault_eq (i : Instr) (r : Raise) (s : State) :
    instrFault i r s =
      { s with
        pc := s.pc - 2#16
        fault := some ⟨r.code, s.pc - 2#16, encode i, true, r.addr⟩
        mode := .halted
        outcome := some (.faulted ⟨r.code, s.pc - 2#16, encode i, true, r.addr⟩) } := rfl

end Sys2Proof.Machine
end

