-- ==== Sys2Proof/Laws/Display.lean ====
section
/-! SUPPORT. What drawing does to each cell and to the collision flag, loop by loop. -/

namespace Sys2Proof.Machine

theorem pixelAt_flipPixel (x y c r : Nat) (d : Vector (BitVec 64) 32) :
    pixelAt (flipPixel x y d) c r
      = (pixelAt d c r ^^ decide (c < 64 ∧ r < 32 ∧ x = c ∧ y = r)) := by
  unfold flipPixel pixelAt
  by_cases hy : y < 32
  · by_cases hr : r < 32
    · simp only [hy, hr, dite_true, Vector.getElem_set]
      by_cases hyr : y = r
      · subst hyr
        simp only [if_true, BitVec.getLsbD_xor]
        congr 1
        by_cases hc : c < 64
        · by_cases hx : x = c
          · subst hx; simp [hc]
          · simp only [BitVec.getLsbD_shiftLeft, hc, decide_true, Bool.true_and, hx, false_and,
              and_false, decide_false]
            by_cases hcx : c < x
            · simp [hcx]
            · have : c - x ≠ 0 := by omega
              simp [hcx, this]
        · simp [hc]
      · simp [hyr]
    · simp [hr]
  · by_cases hr : r < 32
    · have : y ≠ r := by omega
      simp [hy, this]
    · simp [hr]

/-- One pixel, cell by cell. -/
theorem pixelAt_drawPixel (bit : Bool) (x y c r : Nat) (k : Canvas) :
    pixelAt (drawPixel bit x y k).1 c r
      = (pixelAt k.1 c r ^^ (decide (c < 64 ∧ r < 32 ∧ x = c ∧ y = r) && bit)) := by
  unfold drawPixel
  simp only [displayWidth_eq, displayHeight_eq]
  cases bit
  · simp
  · by_cases h : x < 64 ∧ y < 32
    · simp [h, pixelAt_flipPixel]
    · have : ¬ (c < 64 ∧ r < 32 ∧ x = c ∧ y = r) := by rintro ⟨h1, h2, rfl, rfl⟩; exact h ⟨h1, h2⟩
      have h' : ¬ (x < 64 ∧ y < 32 ∧ true = true) := by simpa using h
      rw [if_neg h', decide_eq_false this]; simp

theorem drawPixel_collision (bit : Bool) (x y : Nat) (k : Canvas) :
    (drawPixel bit x y k).2 = true ↔
      k.2 = true ∨ (x < 64 ∧ y < 32 ∧ bit = true ∧ pixelAt k.1 x y = true) := by
  unfold drawPixel
  simp only [displayWidth_eq, displayHeight_eq]
  split
  · rename_i h; simp [h]
  · rename_i h
    constructor
    · exact .inl
    · rintro (h1 | ⟨h1, h2, h3, -⟩)
      · exact h1
      · exact absurd ⟨h1, h2, h3⟩ h

/-- The `n` column offsets from `c0` on, cell by cell. -/
theorem pixelAt_drawColumns (b : Byte) (x0 y c r : Nat) : ∀ (n c0 : Nat) (k : Canvas),
    pixelAt (drawColumns b x0 y c0 n k).1 c r
      = (pixelAt k.1 c r ^^
          (decide (c < 64 ∧ r < 32 ∧ y = r ∧ x0 + c0 ≤ c ∧ c < x0 + c0 + n)
            && spriteBit b (c - x0)))
  | 0, c0, k => by
    have : ¬ (c < 64 ∧ r < 32 ∧ y = r ∧ x0 + c0 ≤ c ∧ c < x0 + c0 + 0) := by omega
    rw [decide_eq_false this]; simp [drawColumns]
  | n + 1, c0, k => by
    simp only [drawColumns, pixelAt_drawColumns b x0 y c r n (c0 + 1), pixelAt_drawPixel]
    by_cases hc : x0 + c0 = c
    · have e1 : c - x0 = c0 := by omega
      have h1 : ¬ (c < 64 ∧ r < 32 ∧ y = r ∧ x0 + (c0 + 1) ≤ c ∧ c < x0 + (c0 + 1) + n) := by omega
      have h2 : (c < 64 ∧ r < 32 ∧ x0 + c0 = c ∧ y = r) ↔
          (c < 64 ∧ r < 32 ∧ y = r ∧ x0 + c0 ≤ c ∧ c < x0 + c0 + (n + 1)) := by omega
      simp only [h1, decide_false, Bool.false_and, Bool.xor_false, e1, decide_eq_decide.2 h2]
    · have h1 : ¬ (c < 64 ∧ r < 32 ∧ x0 + c0 = c ∧ y = r) := by omega
      have h2 : (c < 64 ∧ r < 32 ∧ y = r ∧ x0 + (c0 + 1) ≤ c ∧ c < x0 + (c0 + 1) + n) ↔
          (c < 64 ∧ r < 32 ∧ y = r ∧ x0 + c0 ≤ c ∧ c < x0 + c0 + (n + 1)) := by omega
      simp only [h1, decide_false, Bool.false_and, Bool.xor_false, decide_eq_decide.2 h2]

theorem drawColumns_collision (b : Byte) (x0 y : Nat) : ∀ (n c0 : Nat) (k : Canvas),
    (drawColumns b x0 y c0 n k).2 = true ↔
      k.2 = true ∨ ∃ c, c < 64 ∧ y < 32 ∧ x0 + c0 ≤ c ∧ c < x0 + c0 + n ∧
        spriteBit b (c - x0) = true ∧ pixelAt k.1 c y = true
  | 0, c0, k => by
    simp only [drawColumns]
    constructor
    · exact .inl
    · rintro (h | ⟨c, -, -, h1, h2, -⟩)
      · exact h
      · omega
  | n + 1, c0, k => by
    simp only [drawColumns, drawColumns_collision b x0 y n (c0 + 1), drawPixel_collision]
    constructor
    · rintro ((h | ⟨h1, h2, h3, h4⟩) | ⟨c, h1, h2, h3, h4, h5, h6⟩)
      · exact .inl h
      · exact .inr ⟨x0 + c0, h1, h2, by omega, by omega, by simpa using h3, h4⟩
      · have hne : ¬ (c < 64 ∧ y < 32 ∧ x0 + c0 = c ∧ y = y) := by omega
        rw [pixelAt_drawPixel, decide_eq_false hne, Bool.false_and, Bool.xor_false] at h6
        exact .inr ⟨c, h1, h2, by omega, by omega, h5, h6⟩
    · rintro (h | ⟨c, h1, h2, h3, h4, h5, h6⟩)
      · exact .inl (.inl h)
      · by_cases hc : x0 + c0 = c
        · subst hc
          exact .inl (.inr ⟨h1, h2, by simpa using h5, h6⟩)
        · refine .inr ⟨c, h1, h2, by omega, by omega, h5, ?_⟩
          have hne : ¬ (c < 64 ∧ y < 32 ∧ x0 + c0 = c ∧ y = y) := by omega
          rw [pixelAt_drawPixel, decide_eq_false hne, Bool.false_and, Bool.xor_false]
          exact h6

theorem spriteCovers_nil (x0 y0 c r : Nat) : spriteCovers x0 y0 [] c r = false := by
  simp [spriteCovers]

/-- A sprite covers a cell by its first row or by the rest of it, one row lower. -/
theorem spriteCovers_cons (x0 y0 : Nat) (b : Byte) (bs : List Byte) (c r : Nat) :
    spriteCovers x0 y0 (b :: bs) c r
      = ((decide (c < 64 ∧ r < 32 ∧ y0 = r ∧ x0 + 0 ≤ c ∧ c < x0 + 0 + 8) && spriteBit b (c - x0))
          ^^ spriteCovers x0 (y0 + 1) bs c r) := by
  unfold spriteCovers
  simp only [displayWidth_eq, displayHeight_eq]
  by_cases hr : y0 = r
  · subst hr
    have h1 : ¬ (c < 64 ∧ y0 < 32 ∧ x0 ≤ c ∧ c < x0 + 8 ∧ y0 + 1 ≤ y0) := by omega
    have h2 : (c < 64 ∧ y0 < 32 ∧ x0 ≤ c ∧ c < x0 + 8 ∧ y0 ≤ y0) ↔
        (c < 64 ∧ y0 < 32 ∧ y0 = y0 ∧ x0 + 0 ≤ c ∧ c < x0 + 0 + 8) :=
      ⟨fun ⟨a, b, d, e, _⟩ => ⟨a, b, rfl, d, e⟩, fun ⟨a, b, _, d, e⟩ => ⟨a, b, d, e, le_rfl⟩⟩
    rw [decide_eq_false h1, decide_eq_decide.2 h2, Nat.sub_self, List.getElem?_cons_zero,
      Bool.false_and, Bool.xor_false]
  · have h1 : ¬ (c < 64 ∧ r < 32 ∧ y0 = r ∧ x0 + 0 ≤ c ∧ c < x0 + 0 + 8) := by omega
    simp only [h1, decide_false, Bool.false_and, Bool.false_xor]
    by_cases hlt : y0 < r
    · have e : r - y0 = (r - (y0 + 1)) + 1 := by omega
      rw [e, List.getElem?_cons_succ]
      congr 1
      simp only [decide_eq_decide]
      omega
    · have h2 : ¬ (c < 64 ∧ r < 32 ∧ x0 ≤ c ∧ c < x0 + 8 ∧ y0 ≤ r) := by omega
      have h3 : ¬ (c < 64 ∧ r < 32 ∧ x0 ≤ c ∧ c < x0 + 8 ∧ y0 + 1 ≤ r) := by omega
      rw [decide_eq_false h2, decide_eq_false h3, Bool.false_and, Bool.false_and]

/-- Drawing XORs exactly the cells the sprite covers (R125 to R127). -/
theorem pixelAt_drawRows (x0 c r : Nat) : ∀ (bs : List Byte) (y0 : Nat) (k : Canvas),
    pixelAt (drawRows x0 y0 bs k).1 c r = (pixelAt k.1 c r ^^ spriteCovers x0 y0 bs c r)
  | [], y0, k => by simp [drawRows, spriteCovers_nil]
  | b :: bs, y0, k => by
    simp only [drawRows, pixelAt_drawRows x0 c r bs (y0 + 1), pixelAt_drawColumns,
      spriteCovers_cons, Bool.xor_assoc]

/-- The collision flag is raised exactly when a covered cell was true (R127). -/
theorem drawRows_collision (x0 : Nat) : ∀ (bs : List Byte) (y0 : Nat) (k : Canvas),
    (drawRows x0 y0 bs k).2 = true ↔
      k.2 = true ∨ ∃ c r, spriteCovers x0 y0 bs c r = true ∧ pixelAt k.1 c r = true
  | [], y0, k => by simp [drawRows, spriteCovers_nil]
  | b :: bs, y0, k => by
    simp only [drawRows, drawRows_collision x0 bs (y0 + 1), drawColumns_collision,
      pixelAt_drawColumns]
    constructor
    · rintro ((h | ⟨c, h1, h2, h3, h4, h5, h6⟩) | ⟨c, r, h1, h2⟩)
      · exact .inl h
      · refine .inr ⟨c, y0, ?_, h6⟩
        have : ¬ (y0 + 1 ≤ y0) := by omega
        rw [spriteCovers_cons]
        simp [spriteCovers, h1, h2, h5]
        omega
      · refine .inr ⟨c, r, ?_, ?_⟩
        · have hr : y0 + 1 ≤ r := by
            simp only [spriteCovers, Bool.and_eq_true, decide_eq_true_eq] at h1
            exact h1.1.2.2.2.2
          rw [spriteCovers_cons]
          have : ¬ (c < 64 ∧ r < 32 ∧ y0 = r ∧ x0 + 0 ≤ c ∧ c < x0 + 0 + 8) := by omega
          simp only [this, decide_false, Bool.false_and, Bool.false_xor]
          exact h1
        · have hr : y0 + 1 ≤ r := by
            simp only [spriteCovers, Bool.and_eq_true, decide_eq_true_eq] at h1
            exact h1.1.2.2.2.2
          have : ¬ (c < 64 ∧ r < 32 ∧ y0 = r ∧ x0 + 0 ≤ c ∧ c < x0 + 0 + 8) := by omega
          simp only [this, decide_false, Bool.false_and, Bool.xor_false] at h2
          exact h2
    · rintro (h | ⟨c, r, h1, h2⟩)
      · exact .inl (.inl h)
      · rw [spriteCovers_cons] at h1
        by_cases hr : y0 = r
        · subst hr
          have hc : spriteCovers x0 (y0 + 1) bs c y0 = false := by
            have : ¬ (y0 + 1 ≤ y0) := by omega
            simp [spriteCovers]
          rw [hc, Bool.xor_false, Bool.and_eq_true, decide_eq_true_eq] at h1
          exact .inl (.inr ⟨c, h1.1.1, h1.1.2.1, h1.1.2.2.2.1, h1.1.2.2.2.2, h1.2, h2⟩)
        · have : ¬ (c < 64 ∧ r < 32 ∧ y0 = r ∧ x0 + 0 ≤ c ∧ c < x0 + 0 + 8) := by omega
          simp only [this, decide_false, Bool.false_and, Bool.false_xor] at h1
          refine .inr ⟨c, r, h1, ?_⟩
          simp only [this, decide_false, Bool.false_and, Bool.xor_false]
          exact h2

end Sys2Proof.Machine
end

