-- ==== Sys2Proof/Laws/Step.lean ====
section
/-! SUPPORT. What one step can do: the transaction it takes, the fetch, and the cases of a Cycle. -/

namespace Sys2Proof.Machine

/-! ## The transaction a step takes -/

theorem step_nil {s : State} (h : s.pending = []) : step s = .next s := by
  simp [step, runPending, h]

theorem step_cons {s : State} {t : Transaction} {rest : List Transaction}
    (h : s.pending = t :: rest) : step s = transact t (s.setPending rest) := by
  simp [step, runPending, h]

/-- A Cycle's step, by mode (R80). -/
theorem step_cycle {s : State} {keys : BitVec 16} {rnd : Byte} {rest : List Transaction}
    (h : s.pending = .cycle keys rnd :: rest) :
    step s =
      let b := (s.setPending rest).beginCycle keys rnd
      finishCycle <|
        match s.mode with
        | .reset => .next (b.report .notStarted)
        | .halted => .next (b.report .halted)
        | .awaitingKey x => .next (waitPoll x b)
        | .running => fetchExecute b := by
  rw [step_cons h]
  rfl

/-- A Cycle's step in mode Running. -/
theorem step_running {s : State} {keys : BitVec 16} {rnd : Byte} {rest : List Transaction}
    (h : s.pending = .cycle keys rnd :: rest) (hm : s.mode = .running) :
    step s = finishCycle (fetchExecute ((s.setPending rest).beginCycle keys rnd)) := by
  rw [step_cycle h, hm]

/-! ## The fetch (R53, R80, R142) -/

theorem getLsbD_zero_iff (a : Word) : a.getLsbD 0 = true ↔ a.toNat % 2 = 1 := by
  rw [BitVec.getLsbD, Nat.testBit_zero]; simp

/-- Everything FetchCheck can do. -/
theorem fetchCheck_cases (c : Config) (pc : Word) :
    (pc.toNat % 2 = 1 ∧ c.pcAlign = .strict ∧
      fetchCheck c pc = .error ⟨.misalignedFetch, pc.setWidth 17⟩) ∨
    ((c.pcAlign = .strict → pc.toNat % 2 = 0) ∧ fetchCheck c pc = .ok ()) := by
  unfold fetchCheck
  have hbit := getLsbD_zero_iff pc
  by_cases h : pc.getLsbD 0 = true ∧ c.pcAlign = .strict
  · exact .inl ⟨hbit.1 h.1, h.2, if_pos h⟩
  · refine .inr ⟨fun h' => ?_, if_neg h⟩
    by_contra h0
    exact h ⟨hbit.2 (by omega), h'⟩

/-- An aligned fetch whose two addresses resolve reads the two bytes there, the high one first. -/
theorem fetch_ok {s : State} {a b : Nat} (hal : s.cfg.pcAlign = .strict → s.pc.toNat % 2 = 0)
    (ha : resolve s.cfg s.pc.toNat = .ok a) (hb : resolve s.cfg (s.pc.toNat + 1) = .ok b) :
    fetch s = .ok (wordOfBytes (s.readMem a) (s.readMem b)) := by
  unfold fetch
  rcases fetchCheck_cases s.cfg s.pc with ⟨h1, h2, -⟩ | ⟨-, h⟩
  · have := hal h2; omega
  · rw [h, ha, hb]

/-- Everything the fetch can do. -/
theorem fetch_cases (s : State) :
    (s.pc.toNat % 2 = 1 ∧ s.cfg.pcAlign = .strict ∧
      fetch s = .error ⟨.misalignedFetch, s.pc.setWidth 17⟩) ∨
    (∃ ea, (ea = s.pc.toNat ∨ ea = s.pc.toNat + 1) ∧ 4096 ≤ ea ∧ s.cfg.addrMode = .fault ∧
      fetch s = .error ⟨.addressOutOfRange, BitVec.ofNat 17 ea⟩) ∨
    (∃ a b, resolve s.cfg s.pc.toNat = .ok a ∧ resolve s.cfg (s.pc.toNat + 1) = .ok b ∧
      fetch s = .ok (wordOfBytes (s.readMem a) (s.readMem b))) := by
  rcases fetchCheck_cases s.cfg s.pc with ⟨h1, h2, h3⟩ | ⟨hal, -⟩
  · exact .inl ⟨h1, h2, by simp [fetch, h3]⟩
  · right
    have hc : fetchCheck s.cfg s.pc = .ok () := by
      rcases fetchCheck_cases s.cfg s.pc with ⟨h1, h2, -⟩ | ⟨-, h⟩
      · have := hal h2; omega
      · exact h
    cases ha : resolve s.cfg s.pc.toNat with
    | error r =>
      obtain ⟨h1, h2, rfl⟩ := resolve_error ha
      exact .inl ⟨_, .inl rfl, h1, h2, by simp [fetch, hc, ha]⟩
    | ok a =>
      cases hb : resolve s.cfg (s.pc.toNat + 1) with
      | error r =>
        obtain ⟨h1, h2, rfl⟩ := resolve_error hb
        exact .inl ⟨_, .inr rfl, h1, h2, by simp [fetch, hc, ha, hb]⟩
      | ok b => exact .inr ⟨a, b, rfl, rfl, fetch_ok hal ha hb⟩

/-- The fetch reads only the configuration, pc and memory. -/
theorem fetch_congr {s t : State} (hc : t.cfg = s.cfg) (hp : t.pc = s.pc) (hm : t.mem = s.mem) :
    fetch t = fetch s := by
  simp only [fetch, State.readMem, hc, hp, hm]

/-- Everything a Cycle in mode Running can do: fault in the fetch, run the decoded instruction with
pc = a + 2, or report an unmatched word (R80 to R84). -/
theorem fetchExecute_cases (s : State) :
    (∃ r, fetch s = .error r ∧ fetchExecute s = .next (fetchFault r s)) ∨
    (∃ w i, fetch s = .ok w ∧ decodeWord w = .ok i ∧ fetchExecute s = exec i s.advance) ∨
    (∃ w, fetch s = .ok w ∧ decodeWord w = .error (.unmatched w) ∧
      fetchExecute s = .next (unknownOpcode w s.pc s.advance)) := by
  cases hf : fetch s with
  | error r => exact .inl ⟨r, rfl, by simp [fetchExecute, hf]⟩
  | ok w =>
    cases hd : decodeWord w with
    | ok i => exact .inr (.inl ⟨w, i, rfl, hd, by simp [fetchExecute, hf, hd]⟩)
    | error e =>
      obtain rfl := decodeWord_error hd
      exact .inr (.inr ⟨w, rfl, hd, by simp [fetchExecute, hf, hd]⟩)

/-- Everything the step of a Cycle in mode Running can do. -/
theorem step_running_cases {s : State} {keys : BitVec 16} {rnd : Byte} {rest : List Transaction}
    (h : s.pending = .cycle keys rnd :: rest) (hm : s.mode = .running) :
    let b := (s.setPending rest).beginCycle keys rnd
    (∃ r, fetch s = .error r ∧ step s = .next (fetchFault r b).endCycle) ∨
    (∃ w i, fetch s = .ok w ∧ decodeWord w = .ok i ∧ step s = finishCycle (exec i b.advance)) ∨
    (∃ w, fetch s = .ok w ∧ decodeWord w = .error (.unmatched w) ∧
      step s = .next (unknownOpcode w s.pc b.advance).endCycle) := by
  intro b
  have hf : fetch b = fetch s := fetch_congr rfl rfl rfl
  rw [step_running h hm, ← hf]
  rcases fetchExecute_cases b with ⟨r, h1, h2⟩ | ⟨w, i, h1, h2, h3⟩ | ⟨w, h1, h2, h3⟩
  · exact .inl ⟨r, h1, by rw [h2]; rfl⟩
  · exact .inr (.inl ⟨w, i, h1, h2, by rw [h3]⟩)
  · exact .inr (.inr ⟨w, h1, h2, by rw [h3]; rfl⟩)

/-! ## The other transactions -/

/-- countDown is subtraction that stops at 0 (R148). -/
theorem countDown_toNat (b : Byte) : (countDown b).toNat = b.toNat - 1 := by
  unfold countDown
  split
  · rename_i h; simp [h]
  · rename_i h
    have h0 : b.toNat ≠ 0 := fun h' => h (BitVec.eq_of_toNat_eq (by simpa using h'))
    rw [BitVec.toNat_sub_of_le (by rw [BitVec.le_def]; simp; omega)]
    rfl

theorem resetByte_font (c : Config) {j : Nat} (h : j < 80) :
    resetByte c (c.fontBase + j) = c.fontTable[j] := by
  simp [resetByte, h]

theorem resetByte_elsewhere (c : Config) {a : Nat} (h : a < c.fontBase ∨ c.fontBase + 80 ≤ a) :
    resetByte c a = 0#8 := by
  unfold resetByte
  rw [dif_neg (by omega)]

/-- The cells of an image lie inside the address space when the image fits. -/
theorem imageCells_lt : ∀ {image : List Byte} {a : Nat}, a + image.length ≤ 4096 →
    ∀ x ∈ imageCells a image, x.1 < 4096
  | [], _, _, x, hx => by simp [imageCells] at hx
  | b :: bs, a, h, x, hx => by
    simp only [imageCells, List.mem_cons] at hx
    simp only [List.length_cons] at h
    rcases hx with rfl | hx
    · show a < 4096
      omega
    · exact imageCells_lt (by omega) x hx

/-- The value an image gives to an address: its byte there, if the image reaches it. -/
theorem lastWrite_imageCells (e : Nat) : ∀ (image : List Byte) (a : Nat),
    lastWrite e (imageCells a image) = if a ≤ e then image[e - a]? else none
  | [], a => by simp [imageCells, lastWrite]
  | b :: bs, a => by
    simp only [imageCells, lastWrite, lastWrite_imageCells e bs (a + 1)]
    by_cases h : a = e
    · subst h; simp
    · by_cases h1 : a ≤ e
      · have h2 : e - a = (e - (a + 1)) + 1 := by omega
        simp only [h, h1, if_false, if_true, show a + 1 ≤ e by omega, h2, List.getElem?_cons_succ,
          Option.or_none]
      · simp [h, h1, show ¬ a + 1 ≤ e by omega]

end Sys2Proof.Machine
end

