-- ==== Sys2Proof/Laws/Exec.lean ====
section
/-! SUPPORT. The inversion lemma of `exec`: an instruction completes, keeping all that no instruction
writes, or it takes the fault it may raise. Then the same for several steps. -/

namespace Sys2Proof.Machine

/-! ## The remaining updates -/

theorem writeRegsFrom_rest : ∀ (bs : List Byte) (k : Nat) (s : State),
    State.writeRegsFrom k bs s = { s with v := (State.writeRegsFrom k bs s).v }
  | [], _, _ => rfl
  | b :: bs, k, s => by
    rw [State.writeRegsFrom, writeRegsFrom_rest bs (k + 1) (s.writeReg (BitVec.ofNat 4 k) b)]
    rfl

/-- A register below the first one written stays. -/
theorem readReg_writeRegsFrom_below {y : Nibble} : ∀ {bs : List Byte} {k : Nat} {s : State},
    k + bs.length ≤ 16 → y.toNat < k → (State.writeRegsFrom k bs s).readReg y = s.readReg y
  | [], _, _, _, _ => rfl
  | b :: bs, k, s, h, hy => by
    simp only [List.length_cons] at h
    have hne : BitVec.ofNat 4 k ≠ y := by
      rintro rfl
      simp at hy; omega
    simp only [State.writeRegsFrom]
    rw [readReg_writeRegsFrom_below (by omega) (by omega), readReg_writeReg, if_neg hne]

/-- What each register holds after V[k], V[k+1], … take the bytes (R122). -/
theorem readReg_writeRegsFrom {y : Nibble} : ∀ {bs : List Byte} {k : Nat} {s : State},
    k + bs.length ≤ 16 → k ≤ y.toNat →
    (State.writeRegsFrom k bs s).readReg y = (bs[y.toNat - k]?).getD (s.readReg y)
  | [], _, _, _, _ => by simp [State.writeRegsFrom]
  | b :: bs, k, s, h, hy => by
    simp only [List.length_cons] at h
    have hk : (BitVec.ofNat 4 k).toNat = k := by simp; omega
    simp only [State.writeRegsFrom]
    by_cases hyk : y.toNat = k
    · have hy' : BitVec.ofNat 4 k = y := BitVec.eq_of_toNat_eq (by omega)
      rw [readReg_writeRegsFrom_below (by omega) (by omega), readReg_writeReg, if_pos hy']
      simp [hyk]
    · have hne : BitVec.ofNat 4 k ≠ y := by rintro rfl; omega
      rw [readReg_writeRegsFrom (by omega) (by omega), readReg_writeReg, if_neg hne]
      have e : y.toNat - k = (y.toNat - (k + 1)) + 1 := by omega
      rw [e, List.getElem?_cons_succ]

theorem regsUpTo_length (s : State) (x : Nibble) : (s.regsUpTo x).length = x.toNat + 1 := by
  have := x.isLt
  simp [State.regsUpTo]; omega

theorem regsUpTo_getElem (s : State) (x : Nibble) {k : Nat} (h : k < (s.regsUpTo x).length) :
    (s.regsUpTo x)[k] = s.readReg (BitVec.ofNat 4 k) := by
  have h1 := x.isLt
  have h2 : k < x.toNat + 1 := by simpa [regsUpTo_length] using h
  have hk : (BitVec.ofNat 4 k).toNat = k := by simp; omega
  simp only [State.regsUpTo, List.getElem_take, Vector.getElem_toList, State.readReg, hk]

/-! ## Storing and reading a range at I -/

/-- What a resolved range is, offset by offset. -/
theorem indexAddrs_of_reaches {s : State} {n : Nat} (h : Reaches s n) :
    ∃ l, s.indexAddrs n = .ok l ∧ l.length = n ∧
      ∀ k (hk : k < l.length), resolve s.cfg (s.i.toNat + k) = .ok l[k] := by
  obtain ⟨l, hl⟩ := resolveRange_of_all h
  exact ⟨l, hl, resolveRange_ok hl⟩

/-- The first address out of range is the one reported (R50). -/
theorem indexAddrs_of_firstOutOfRange {s : State} {n k : Nat} (h : FirstOutOfRange s n k) :
    s.indexAddrs n = .error ⟨.addressOutOfRange, BitVec.ofNat 17 (s.i.toNat + k)⟩ := by
  obtain ⟨h1, h2, h3, h4⟩ := h
  have hk : ∀ a, resolve s.cfg (s.i.toNat + k) ≠ .ok a := by
    intro a
    simp [resolve, h1, Nat.not_lt.2 h3]
  cases hl : s.indexAddrs n with
  | ok l =>
    obtain ⟨hn, hr⟩ := resolveRange_ok hl
    exact absurd (hr k (by omega)) (hk _)
  | error r =>
    obtain ⟨j, -, hj, hlow⟩ := resolveRange_error hl
    obtain ⟨hge, -, rfl⟩ := resolve_error hj
    have hjk : j = k := by
      rcases Nat.lt_trichotomy j k with h | h | h
      · have := h4 j h
        simp at this; omega
      · exact h
      · obtain ⟨a, ha⟩ := hlow k h
        exact absurd ha (hk a)
    rw [hjk]

/-- The writes of a resolved range leave what `StoresAtIndex` says (R49 to R51). -/
theorem storesAtIndex_writeMem {s : State} {n : Nat} {l : List Nat} {bs : List Byte} {val : Nat → Byte}
    (hm : MemoryCanonical s) (hl : s.indexAddrs n = .ok l) (hb : bs.length = n)
    (hv : ∀ k (h : k < bs.length), bs[k] = val k) :
    StoresAtIndex s ((s.writeMem (l.zip bs)).report .executed) n val := by
  obtain ⟨hn, hr⟩ := resolveRange_ok hl
  have hlt := zip_fst_lt (bs := bs) (resolveRange_lt hl)
  constructor
  · intro a ha
    refine Memory.read_writeAll_other s.cfg ?_
    intro x hx
    obtain ⟨j, hj, rfl⟩ := List.getElem_of_mem hx
    simp only [List.length_zip, Nat.lt_min] at hj
    rintro rfl
    exact ha j (by omega) (by simpa using hr j hj.1)
  · intro k hk a ha hlast
    change Memory.read s.cfg (Memory.writeAll s.cfg _ s.mem) a = _
    have hkl : k < (l.zip bs).length := by simp; omega
    rw [Memory.read_writeAll s.cfg hlt hm, lastWrite_getElem hkl]
    · simp [hv]
    · have := hr k (by omega)
      rw [ha] at this
      simpa using (Except.ok.inj this).symm
    · intro j hj hkj e
      simp only [List.length_zip, Nat.lt_min] at hj
      simp only [List.getElem_zip] at e
      exact hlast j (by omega) hkj (by rw [hr j hj.1, e])

/-- The bytes read at a resolved range are the sprite rows at I. -/
theorem map_readMem_eq_spriteRows {s : State} {n : Nat} {l : List Nat} (hl : s.indexAddrs n = .ok l) :
    l.map s.readMem = s.spriteRows n := by
  obtain ⟨hn, hr⟩ := resolveRange_ok hl
  apply List.ext_getElem
  · simp [State.spriteRows, hn]
  · intro k h1 h2
    have hk : k < l.length := by simpa using h1
    simp [State.spriteRows, State.byteAtIndex, hr k hk]

/-! ## What an instruction can do -/

/-- All that no completing instruction writes, and the canonical form of memory. -/
def Keeps (s t : State) : Prop :=
  t.fault = s.fault ∧ t.loadTruncated = s.loadTruncated ∧ PortsSame s t ∧
    (Memory.wf s.cfg s.mem = true → Memory.wf t.cfg t.mem = true)

theorem Keeps.of_mem {s t : State} (h1 : t.fault = s.fault) (h2 : t.loadTruncated = s.loadTruncated)
    (h3 : PortsSame s t) (h4 : t.mem = s.mem) : Keeps s t :=
  ⟨h1, h2, h3, fun h => by rw [h3.1, h4]; exact h⟩

/-- A fault an instruction raises fits it (R138). -/
def RaiseFits (c : Config) (i : Instr) (r : Raise) : Prop :=
  raisedBy r.code i = true ∧ ∀ p o v, infoFits c ⟨r.code, p, o, v, r.addr⟩

theorem raiseFits_address {c : Config} {ea : Nat} {i : Instr} (hi : raisedBy .addressOutOfRange i = true)
    (hea : ea < 131072) {r : Raise} (h : resolve c ea = .error r) : RaiseFits c i r := by
  obtain ⟨h1, h2, rfl⟩ := resolve_error h
  refine ⟨hi, fun _ _ _ => ?_⟩
  simp only [infoFits, BitVec.toNat_ofNat]
  exact ⟨by simp; omega, h2⟩

theorem raiseFits_range {s : State} {n : Nat} {i : Instr} (hi : raisedBy .addressOutOfRange i = true)
    (hn : n ≤ 16) {r : Raise} (h : s.indexAddrs n = .error r) : RaiseFits s.cfg i r := by
  obtain ⟨k, hk, h1, -⟩ := resolveRange_error h
  have := s.i.isLt
  exact raiseFits_address hi (by omega) h1

/-- An instruction completes: it keeps what no instruction writes, and the mode but for FX0A; or it takes
the fault it may raise, with nothing else changed (R85, R139). -/
theorem exec_cases (i : Instr) (s : State) :
    (∃ t, exec i s = .next t ∧ Keeps s t ∧
      (t.mode = s.mode ∨ ∃ x, i = .ldVxKey x ∧ t.mode = .awaitingKey x)) ∨
    (∃ r, exec i s = .next (instrFault i r s) ∧ RaiseFits s.cfg i r) := by
  have keep : ∀ t : State, t.fault = s.fault → t.loadTruncated = s.loadTruncated → PortsSame s t →
      t.mem = s.mem → Keeps s t := fun t => Keeps.of_mem
  cases i
  case ret =>
    rcases pop_cases s with ⟨-, h⟩ | ⟨h0, h⟩
    · refine .inr ⟨⟨.stackUnderflow, 0#17⟩, ?_, rfl, fun _ _ _ => rfl⟩
      show execRet s = _
      simp only [execRet, h, answer]
    · have e : execRet s = retire
          ((s.setStack s.stack ⟨s.sp.val - 1, by have := s.sp.isLt; omega⟩).setPc
          (s.stack[s.sp.val - 1]'(by have := s.sp.isLt; omega))) := by
        simp only [execRet, h, answer]
      exact .inl ⟨_, e, keep _ rfl rfl ⟨rfl, rfl, rfl, rfl, rfl⟩ rfl, .inl rfl⟩
  case call nnn =>
    rcases push_cases s.pc s with ⟨-, h⟩ | ⟨h0, h⟩
    · refine .inr ⟨⟨.stackOverflow, 0#17⟩, ?_, rfl, fun _ _ _ => rfl⟩
      show execCall nnn s = _
      simp only [execCall, h, answer]
    · have e : execCall nnn s = retire
          ((s.setStack (s.stack.set s.sp.val s.pc h0) ⟨s.sp.val + 1, by omega⟩).setPc
          (target nnn)) := by
        simp only [execCall, h, answer]
      exact .inl ⟨_, e, keep _ rfl rfl ⟨rfl, rfl, rfl, rfl, rfl⟩ rfl, .inl rfl⟩
  case ldBcd x =>
    cases h : s.indexAddrs 3 with
    | error r =>
      refine .inr ⟨r, ?_, raiseFits_range rfl (by omega) h⟩
      show execLdBcd x s = _
      simp only [execLdBcd, h, answer]
    | ok addrs =>
      refine .inl ⟨(s.writeMem (addrs.zip (decimalDigits (s.readReg x)))).report .executed, ?_,
        ⟨rfl, rfl, ⟨rfl, rfl, rfl, rfl, rfl⟩, ?_⟩, .inl rfl⟩
      · show execLdBcd x s = _
        simp only [execLdBcd, h, answer]
        rfl
      · exact writeMem_wf s (zip_fst_lt (resolveRange_lt h))
  case storeRegs x =>
    cases h : s.indexAddrs (x.toNat + 1) with
    | error r =>
      refine .inr ⟨r, ?_, raiseFits_range rfl (by have := x.isLt; omega) h⟩
      show execStoreRegs x s = _
      simp only [execStoreRegs, h, answer]
    | ok addrs =>
      refine .inl ⟨(s.writeMem (addrs.zip (s.regsUpTo x))).report .executed, ?_,
        ⟨rfl, rfl, ⟨rfl, rfl, rfl, rfl, rfl⟩, ?_⟩, .inl rfl⟩
      · show execStoreRegs x s = _
        simp only [execStoreRegs, h, answer]
        rfl
      · exact writeMem_wf s (zip_fst_lt (resolveRange_lt h))
  case loadRegs x =>
    cases h : s.indexAddrs (x.toNat + 1) with
    | error r =>
      refine .inr ⟨r, ?_, raiseFits_range rfl (by have := x.isLt; omega) h⟩
      show execLoadRegs x s = _
      simp only [execLoadRegs, h, answer]
    | ok addrs =>
      refine .inl ⟨(s.writeRegsFrom 0 (addrs.map s.readMem)).report .executed, ?_, ?_, .inl ?_⟩
      · show execLoadRegs x s = _
        simp only [execLoadRegs, h, answer]
        rfl
      · rw [writeRegsFrom_rest]
        exact keep _ rfl rfl ⟨rfl, rfl, rfl, rfl, rfl⟩ rfl
      · rw [writeRegsFrom_rest]; rfl
  case drw x y n =>
    cases h : s.indexAddrs n.toNat with
    | error r =>
      refine .inr ⟨r, ?_, raiseFits_range rfl (by have := n.isLt; omega) h⟩
      show execDrw x y n s = _
      simp only [execDrw, h, answer]
    | ok addrs =>
      have e : execDrw x y n s = retire
          (let k := drawRows (startColumn (s.readReg x)) (startRow (s.readReg y))
            (addrs.map s.readMem) (s.fb, false)
          (s.setFb k.1).writeFlag k.2) := by
        simp only [execDrw, h, answer]
      exact .inl ⟨_, e, keep _ rfl rfl ⟨rfl, rfl, rfl, rfl, rfl⟩ rfl, .inl rfl⟩
  case skp x =>
    rcases keyIndex_cases s.cfg (s.readReg x) with ⟨-, h⟩ | ⟨h1, h2, h⟩ | ⟨-, -, h⟩
    case inr.inl =>
      refine .inr ⟨_, by show execSkp x s = _; simp only [execSkp, h, answer]; rfl, rfl, fun _ _ _ => ?_⟩
      have := (s.readReg x).isLt
      refine ⟨?_, ?_, h2⟩ <;> simp only [BitVec.toNat_setWidth] <;> omega
    all_goals
      refine .inl ⟨(s.skipIf (keyPressed s.keys ((s.readReg x).setWidth 4))).report .executed, ?_, ?_, ?_⟩
      · show execSkp x s = _
        simp only [execSkp, h, answer]; rfl
      · exact keep _ (by simp) (by simp) (by simp [PortsSame]) (by simp)
      · left; simp
  case sknp x =>
    rcases keyIndex_cases s.cfg (s.readReg x) with ⟨-, h⟩ | ⟨h1, h2, h⟩ | ⟨-, -, h⟩
    case inr.inl =>
      refine .inr ⟨_, by show execSknp x s = _; simp only [execSknp, h, answer]; rfl, rfl, fun _ _ _ => ?_⟩
      have := (s.readReg x).isLt
      refine ⟨?_, ?_, h2⟩ <;> simp only [BitVec.toNat_setWidth] <;> omega
    all_goals
      refine .inl ⟨(s.skipIf (!keyPressed s.keys ((s.readReg x).setWidth 4))).report .executed, ?_, ?_, ?_⟩
      · show execSknp x s = _
        simp only [execSknp, h, answer]; rfl
      · exact keep _ (by simp) (by simp) (by simp [PortsSame]) (by simp)
      · left; simp
  case ldVxKey x =>
    left
    cases h : lowestKey s.keys with
    | some k =>
      refine ⟨s.latchKey x k, ?_, keep _ rfl rfl ⟨rfl, rfl, rfl, rfl, rfl⟩ rfl, .inl rfl⟩
      show execLdVxKey x s = _
      simp only [execLdVxKey, h]
    | none =>
      refine ⟨(s.setMode (.awaitingKey x)).report (.enteredWait x), ?_,
        keep _ rfl rfl ⟨rfl, rfl, rfl, rfl, rfl⟩ rfl, .inr ⟨x, rfl, rfl⟩⟩
      show execLdVxKey x s = _
      simp only [execLdVxKey, h]
  all_goals
    refine .inl ⟨_, rfl, keep _ ?_ ?_ ?_ ?_, .inl ?_⟩ <;>
      first
        | rfl
        | exact ⟨rfl, rfl, rfl, rfl, rfl⟩
        | simp [PortsSame]

/-! ## Several steps -/

/-- One step more of a run that goes on. -/
theorem core_run_succ {n : Nat} {s t : State} (h : step s = .next t) :
    core.run (n + 1) s = core.run n t := by
  have h' : core.step s = .next t := h
  simp only [Host.Core.run, h']

end Sys2Proof.Machine
end

