-- ==== Sys2Proof/Laws/PerInstr.lean ====
section
/-! SUPPORT. One statement per instruction: its encoded word selects its own row of the opcode map, with
the match and mask of R69. -/

namespace Sys2Proof.Laws.EncodedWordSelectsItsRow

/-- The word of an instruction, AND the mask of its row, is the match of its row (R69). -/
def Statement (i : Instr) : Prop := i.row.selects (encode i) = true

theorem cls : Statement .cls := by
  rfl

theorem ret : Statement .ret := by
  rfl

theorem jp (nnn : Addr12) : Statement (.jp nnn) := by
  simp [Statement, Instr.row, encode, OpcodeRow.selects, and_maskF]

theorem call (nnn : Addr12) : Statement (.call nnn) := by
  simp [Statement, Instr.row, encode, OpcodeRow.selects, and_maskF]

theorem seImm (x : Nibble) (nn : Byte) : Statement (.seImm x nn) := by
  simp [Statement, Instr.row, encode, OpcodeRow.selects, and_maskF]

theorem sneImm (x : Nibble) (nn : Byte) : Statement (.sneImm x nn) := by
  simp [Statement, Instr.row, encode, OpcodeRow.selects, and_maskF]

theorem seReg (x y n : Nibble) : Statement (.seReg x y n) := by
  simp [Statement, Instr.row, encode, OpcodeRow.selects, and_maskF]

theorem ldImm (x : Nibble) (nn : Byte) : Statement (.ldImm x nn) := by
  simp [Statement, Instr.row, encode, OpcodeRow.selects, and_maskF]

theorem addImm (x : Nibble) (nn : Byte) : Statement (.addImm x nn) := by
  simp [Statement, Instr.row, encode, OpcodeRow.selects, and_maskF]

theorem ldReg (x y : Nibble) : Statement (.ldReg x y) := by
  simp [Statement, Instr.row, encode, OpcodeRow.selects, and_maskFN]

theorem orReg (x y : Nibble) : Statement (.orReg x y) := by
  simp [Statement, Instr.row, encode, OpcodeRow.selects, and_maskFN]

theorem andReg (x y : Nibble) : Statement (.andReg x y) := by
  simp [Statement, Instr.row, encode, OpcodeRow.selects, and_maskFN]

theorem xorReg (x y : Nibble) : Statement (.xorReg x y) := by
  simp [Statement, Instr.row, encode, OpcodeRow.selects, and_maskFN]

theorem addReg (x y : Nibble) : Statement (.addReg x y) := by
  simp [Statement, Instr.row, encode, OpcodeRow.selects, and_maskFN]

theorem subReg (x y : Nibble) : Statement (.subReg x y) := by
  simp [Statement, Instr.row, encode, OpcodeRow.selects, and_maskFN]

theorem shrReg (x y : Nibble) : Statement (.shrReg x y) := by
  simp [Statement, Instr.row, encode, OpcodeRow.selects, and_maskFN]

theorem subnReg (x y : Nibble) : Statement (.subnReg x y) := by
  simp [Statement, Instr.row, encode, OpcodeRow.selects, and_maskFN]

theorem shlReg (x y : Nibble) : Statement (.shlReg x y) := by
  simp [Statement, Instr.row, encode, OpcodeRow.selects, and_maskFN]

theorem sneReg (x y n : Nibble) : Statement (.sneReg x y n) := by
  simp [Statement, Instr.row, encode, OpcodeRow.selects, and_maskF]

theorem ldI (nnn : Addr12) : Statement (.ldI nnn) := by
  simp [Statement, Instr.row, encode, OpcodeRow.selects, and_maskF]

theorem jpV0 (nnn : Addr12) : Statement (.jpV0 nnn) := by
  simp [Statement, Instr.row, encode, OpcodeRow.selects, and_maskF]

theorem rnd (x : Nibble) (nn : Byte) : Statement (.rnd x nn) := by
  simp [Statement, Instr.row, encode, OpcodeRow.selects, and_maskF]

theorem drw (x y n : Nibble) : Statement (.drw x y n) := by
  simp [Statement, Instr.row, encode, OpcodeRow.selects, and_maskF]

theorem skp (x : Nibble) : Statement (.skp x) := by
  simp [Statement, Instr.row, encode, OpcodeRow.selects, and_maskFNN]

theorem sknp (x : Nibble) : Statement (.sknp x) := by
  simp [Statement, Instr.row, encode, OpcodeRow.selects, and_maskFNN]

theorem ldVxDt (x : Nibble) : Statement (.ldVxDt x) := by
  simp [Statement, Instr.row, encode, OpcodeRow.selects, and_maskFNN]

theorem ldVxKey (x : Nibble) : Statement (.ldVxKey x) := by
  simp [Statement, Instr.row, encode, OpcodeRow.selects, and_maskFNN]

theorem ldDtVx (x : Nibble) : Statement (.ldDtVx x) := by
  simp [Statement, Instr.row, encode, OpcodeRow.selects, and_maskFNN]

theorem ldStVx (x : Nibble) : Statement (.ldStVx x) := by
  simp [Statement, Instr.row, encode, OpcodeRow.selects, and_maskFNN]

theorem addI (x : Nibble) : Statement (.addI x) := by
  simp [Statement, Instr.row, encode, OpcodeRow.selects, and_maskFNN]

theorem ldFont (x : Nibble) : Statement (.ldFont x) := by
  simp [Statement, Instr.row, encode, OpcodeRow.selects, and_maskFNN]

theorem ldBcd (x : Nibble) : Statement (.ldBcd x) := by
  simp [Statement, Instr.row, encode, OpcodeRow.selects, and_maskFNN]

theorem storeRegs (x : Nibble) : Statement (.storeRegs x) := by
  simp [Statement, Instr.row, encode, OpcodeRow.selects, and_maskFNN]

theorem loadRegs (x : Nibble) : Statement (.loadRegs x) := by
  simp [Statement, Instr.row, encode, OpcodeRow.selects, and_maskFNN]

end Sys2Proof.Laws.EncodedWordSelectsItsRow
end

