-- ==== Sys2Proof/Tests/Slice0.lean ====
section
/-! SUPPORT. Tests of one step each, their expected values taken from spec/ (vectors AL, CF, IM, DS, KT, FD,
RL of 95_test_vectors.md and the examples of the rules), the ill-formed terms the checks refuse, and a
witness for the hypotheses of every obligation that has some. -/

namespace Sys2Proof.Machine

/-- The parameters changed by `f`. -/
def State.under (s : State) (f : Config → Config) : State := { s with cfg := f s.cfg }

/-- V[x] <- b before the vector. -/
def State.given (s : State) (x : Nibble) (b : Byte) : State := s.writeReg x b

end Sys2Proof.Machine

namespace Sys2Proof.Tests

open Sys2Proof.Machine

/-! ## Helpers -/

/-- The start of every vector of 95_test_vectors.md: Reset, then a Load. -/
def boot : State := { State.reset with mode := .running }

/-- One Cycle with the word `w` at pc. -/
def runWord (s : State) (w : Nat) : Answer := step (s.withFetchWord 16 w)

/-- The answer is a next state that passes the check. -/
def shows (a : Answer) (check : State → Bool) : Bool :=
  match a with
  | .next t => check t
  | .fault _ => false
  | .refused _ => false

/-- The next state holds this fault record, is Halted, and its pc is the record's. -/
def faulted (r : FaultRecord) (t : State) : Bool :=
  t.fault == some r && t.mode == .halted && t.pc == r.pc && t.outcome == some (.faulted r)

/-- The one transaction `tr` in state `s`. -/
def send (s : State) (tr : Transaction) : Answer := step { s with pending := [tr] }

/-- How many cells of a row are true. -/
def cells (s : State) (y : Nat) : Nat := (List.range 64).countP fun x => s.pixel x y

def vy (c : Config) : Config := { c with shiftSource := .vy }
def vx (c : Config) : Config := { c with shiftSource := .vx }
def wrap (c : Config) : Config := { c with addrMode := .wrap }
def clamp (c : Config) : Config := { c with addrMode := .clamp }
def relaxed (c : Config) : Config := { c with pcAlign := .relaxed }

/-! ## Decoding: one word per constructor, written out from the patterns of R69 -/

theorem test_decode_cls : decodeWord 0b0000_0000_1110_0000 = .ok .cls := by decide
theorem test_decode_ret : decodeWord 0b0000_0000_1110_1110 = .ok .ret := by decide
theorem test_decode_jp : decodeWord 0b0001_0010_0000_0100 = .ok (.jp 0x204) := by decide
theorem test_decode_call : decodeWord 0b0010_0010_0001_0000 = .ok (.call 0x210) := by decide
theorem test_decode_seImm : decodeWord 0b0011_0011_0000_0101 = .ok (.seImm 3 0x05) := by decide
theorem test_decode_sneImm : decodeWord 0b0100_0011_0001_0001 = .ok (.sneImm 3 0x11) := by decide
theorem test_decode_seReg : decodeWord 0b0101_0001_0010_0111 = .ok (.seReg 1 2 7) := by decide
theorem test_decode_ldImm : decodeWord 0b0110_1010_1001_1101 = .ok (.ldImm 0xA 0x9D) := by decide
theorem test_decode_addImm : decodeWord 0b0111_0100_0000_0011 = .ok (.addImm 4 0x03) := by decide
theorem test_decode_ldReg : decodeWord 0b1000_0001_0010_0000 = .ok (.ldReg 1 2) := by decide
theorem test_decode_orReg : decodeWord 0b1000_0001_0010_0001 = .ok (.orReg 1 2) := by decide
theorem test_decode_andReg : decodeWord 0b1000_0001_0010_0010 = .ok (.andReg 1 2) := by decide
theorem test_decode_xorReg : decodeWord 0b1000_0001_0010_0011 = .ok (.xorReg 1 2) := by decide
theorem test_decode_addReg : decodeWord 0b1000_0001_0010_0100 = .ok (.addReg 1 2) := by decide
theorem test_decode_subReg : decodeWord 0b1000_0001_0010_0101 = .ok (.subReg 1 2) := by decide
theorem test_decode_shrReg : decodeWord 0b1000_0001_0010_0110 = .ok (.shrReg 1 2) := by decide
theorem test_decode_subnReg : decodeWord 0b1000_0001_0010_0111 = .ok (.subnReg 1 2) := by decide
theorem test_decode_shlReg : decodeWord 0b1000_0001_0010_1110 = .ok (.shlReg 1 2) := by decide
theorem test_decode_sneReg : decodeWord 0b1001_0001_0010_0000 = .ok (.sneReg 1 2 0) := by decide
theorem test_decode_ldI : decodeWord 0b1010_0011_0000_0001 = .ok (.ldI 0x301) := by decide
theorem test_decode_jpV0 : decodeWord 0b1011_0011_0000_0001 = .ok (.jpV0 0x301) := by decide
theorem test_decode_rnd : decodeWord 0b1100_0011_0000_1111 = .ok (.rnd 3 0x0F) := by decide
theorem test_decode_drw : decodeWord 0b1101_0001_0010_0101 = .ok (.drw 1 2 5) := by decide
theorem test_decode_skp : decodeWord 0b1110_0101_1001_1110 = .ok (.skp 5) := by decide
theorem test_decode_sknp : decodeWord 0b1110_0101_1010_0001 = .ok (.sknp 5) := by decide
theorem test_decode_ldVxDt : decodeWord 0b1111_0001_0000_0111 = .ok (.ldVxDt 1) := by decide
theorem test_decode_ldVxKey : decodeWord 0b1111_0011_0000_1010 = .ok (.ldVxKey 3) := by decide
theorem test_decode_ldDtVx : decodeWord 0b1111_0010_0001_0101 = .ok (.ldDtVx 2) := by decide
theorem test_decode_ldStVx : decodeWord 0b1111_0010_0001_1000 = .ok (.ldStVx 2) := by decide
theorem test_decode_addI : decodeWord 0b1111_0110_0001_1110 = .ok (.addI 6) := by decide
theorem test_decode_ldFont : decodeWord 0b1111_1010_0010_1001 = .ok (.ldFont 0xA) := by decide
theorem test_decode_ldBcd : decodeWord 0b1111_1010_0011_0011 = .ok (.ldBcd 0xA) := by decide
theorem test_decode_storeRegs : decodeWord 0b1111_0010_0101_0101 = .ok (.storeRegs 2) := by decide
theorem test_decode_loadRegs : decodeWord 0b1111_0010_0110_0101 = .ok (.loadRegs 2) := by decide

/-- FD1 to FD7: words of no row. -/
theorem test_decode_unmatched :
    [0x0000, 0x0123, 0x8008, 0x800F, 0xE000, 0xE1A2, 0xF0FF].all
      (fun n => decodeWord (BitVec.ofNat 16 n) == .error (.unmatched (BitVec.ofNat 16 n))) := by
  decide

theorem test_decode_too_short : decodeBytes [0x6A] = .error .tooShort := by decide
theorem test_decode_no_bytes : decodeBytes [] = .error .tooShort := by decide

/-- R52: the first byte is the high one; what follows the instruction is left. -/
theorem test_decode_bytes_big_endian :
    decodeBytes [0x6A, 0x01, 0x77] = .ok (.ldImm 0xA 0x01, [0x77]) := by decide

/-! ## Ill-formed terms, refused -/

/-- R9: a font ending at 0x201 reaches the program. -/
theorem test_wellFormed_refuses_high_font :
    Config.wellFormed { Config.default with fontBase := 433 } = false := by decide

/-- R9: the highest font base, 0x1B0. -/
theorem test_wellFormed_accepts_highest_font :
    Config.wellFormed { Config.default with fontBase := 432 } = true := by decide

/-- R75: the assembler never writes N ≠ 0. -/
theorem test_assembled_refuses_seReg_n : Instr.assembled (.seReg 1 2 7) = false := by decide
theorem test_assembled_refuses_sneReg_n : Instr.assembled (.sneReg 1 2 1) = false := by decide

theorem test_memory_refuses_unsorted : Memory.wf Config.default [(3, 1), (2, 1)] = false := by decide
theorem test_memory_refuses_repeat : Memory.wf Config.default [(3, 1), (3, 2)] = false := by decide
theorem test_memory_refuses_high : Memory.wf Config.default [(4096, 1)] = false := by decide
theorem test_memory_refuses_reset_byte : Memory.wf Config.default [(3, 0)] = false := by decide
theorem test_memory_refuses_font_byte : Memory.wf Config.default [(0x50, 0xF0)] = false := by decide

/-! ## Register arithmetic and logic (section 2 of 95_test_vectors.md) -/

/-- AL1. -/
theorem test_ldImm : shows (runWord boot 0x6A9D) (fun t => t.readReg 0xA == 0x9D#8) := by decide

/-- AL3. -/
theorem test_addImm_wraps_without_flag :
    shows (runWord (boot.given 0 0xFF) 0x7001)
      (fun t => t.readReg 0 == 0#8 && t.readReg 0xF == 0#8) := by decide

/-- AL4. -/
theorem test_addImm_into_vf :
    shows (runWord (boot.given 0xF 2) 0x7FFF) (fun t => t.readReg 0xF == 1#8) := by decide

/-- AL5. -/
theorem test_ldReg :
    shows (runWord (boot.given 2 0x33) 0x8120) (fun t => t.readReg 1 == 0x33#8) := by decide

/-- AL6. -/
theorem test_orReg_keeps_vf :
    shows (runWord (((boot.given 1 0x0F).given 2 0xF0).given 0xF 7) 0x8121)
      (fun t => t.readReg 1 == 0xFF#8 && t.readReg 0xF == 7#8) := by decide

/-- AL9. -/
theorem test_orReg_into_vf :
    shows (runWord ((boot.given 0xF 1).given 0 2) 0x8F01) (fun t => t.readReg 0xF == 3#8) := by decide

/-- AL7. -/
theorem test_andReg :
    shows (runWord ((boot.given 1 0x3C).given 2 0x0F) 0x8122)
      (fun t => t.readReg 1 == 0x0C#8) := by decide

/-- R107, example. -/
theorem test_xorReg :
    shows (runWord ((boot.given 1 0xFF).given 2 0x0F) 0x8123)
      (fun t => t.readReg 1 == 0xF0#8) := by decide

/-- AL8. -/
theorem test_xorReg_same :
    shows (runWord (boot.given 1 0x5A) 0x8113) (fun t => t.readReg 1 == 0#8) := by decide

/-- S4. -/
theorem test_addReg_carry :
    shows (runWord ((boot.given 1 250).given 2 10) 0x8124)
      (fun t => t.readReg 1 == 4#8 && t.readReg 0xF == 1#8) := by decide

/-- AL13: VF holds the carry, not the result. -/
theorem test_addReg_into_vf :
    shows (runWord ((boot.given 0xF 0x80).given 1 0x90) 0x8F14)
      (fun t => t.readReg 0xF == 1#8) := by decide

/-- S5. -/
theorem test_subReg_borrow :
    shows (runWord ((boot.given 1 5).given 2 10) 0x8125)
      (fun t => t.readReg 1 == 251#8 && t.readReg 0xF == 0#8) := by decide

/-- AL15: equal operands do not borrow. -/
theorem test_subReg_equal :
    shows (runWord (boot.given 1 7) 0x8115)
      (fun t => t.readReg 1 == 0#8 && t.readReg 0xF == 1#8) := by decide

/-- AL18. -/
theorem test_subnReg_borrow :
    shows (runWord ((boot.given 1 10).given 2 5) 0x8127)
      (fun t => t.readReg 1 == 0xFB#8 && t.readReg 0xF == 0#8) := by decide

/-- AL20: the result 2 is overwritten. -/
theorem test_subnReg_into_vf :
    shows (runWord ((boot.given 0xF 3).given 1 5) 0x8F17)
      (fun t => t.readReg 0xF == 1#8) := by decide

/-- AL21, SHIFT_SOURCE = VY. -/
theorem test_shrReg_vy :
    shows (runWord ((boot.under vy).given 2 5) 0x8126)
      (fun t => t.readReg 1 == 2#8 && t.readReg 0xF == 1#8) := by decide

/-- AL21, SHIFT_SOURCE = VX. -/
theorem test_shrReg_vx :
    shows (runWord ((boot.under vx).given 2 5) 0x8126)
      (fun t => t.readReg 1 == 0#8 && t.readReg 0xF == 0#8) := by decide

/-- AL22, SHIFT_SOURCE = VY. -/
theorem test_shlReg_vy :
    shows (runWord (((boot.under vy).given 1 1).given 2 0x80) 0x812E)
      (fun t => t.readReg 1 == 0#8 && t.readReg 0xF == 1#8) := by decide

/-- AL22, SHIFT_SOURCE = VX. -/
theorem test_shlReg_vx :
    shows (runWord (((boot.under vx).given 1 1).given 2 0x80) 0x812E)
      (fun t => t.readReg 1 == 2#8 && t.readReg 0xF == 0#8) := by decide

/-- AL27. -/
theorem test_rnd :
    shows (runWord { boot with rnd := 0xA7 } 0xC30F) (fun t => t.readReg 3 == 0x07#8) := by decide

/-- R40: the random byte and the keys of a Cycle are not stored after it. -/
theorem test_inputs_not_stored :
    shows (runWord { boot with rnd := 0xA7, keys := 0x8001 } 0xC30F)
      (fun t => t.keys == 0#16 && t.rnd == 0#8) := by decide

/-! ## Control transfer (section 3) -/

/-- CF2, jump to self. -/
theorem test_jp_self :
    shows (runWord boot 0x1200)
      (fun t => t.pc == 0x200#16 && t.outcome == some .executed) := by decide

/-- CF3. -/
theorem test_call :
    shows (runWord { boot with pc := 0x204 } 0x2210)
      (fun t => t.stack[0] == 0x206#16 && t.sp.val == 1 && t.pc == 0x210#16) := by decide

/-- CF5. -/
theorem test_call_overflow :
    shows (runWord { boot with pc := 0x300, sp := 16 } 0x2400)
      (fun t => faulted ⟨.stackOverflow, 0x300, 0x2400, true, 0⟩ t && t.sp.val == 16) := by decide

/-- CF4. -/
theorem test_ret :
    shows (runWord { boot with pc := 0x212, sp := 1, stack := boot.stack.set 0 0x206 } 0x00EE)
      (fun t => t.pc == 0x206#16 && t.sp.val == 0 && t.stack[0] == 0x206#16) := by decide

/-- CF6. -/
theorem test_ret_underflow :
    shows (runWord { boot with pc := 0x300 } 0x00EE)
      (faulted ⟨.stackUnderflow, 0x300, 0x00EE, true, 0⟩) := by decide

/-- CF7. -/
theorem test_seImm_taken :
    shows (runWord { boot.given 0 5 with pc := 0x208 } 0x3005)
      (fun t => t.pc == 0x20C#16) := by decide

/-- CF8. -/
theorem test_seImm_not_taken :
    shows (runWord { boot.given 0 4 with pc := 0x208 } 0x3005)
      (fun t => t.pc == 0x20A#16) := by decide

/-- CF9. -/
theorem test_sneImm :
    shows (runWord { boot.given 3 0x10 with pc := 0x300 } 0x4311)
      (fun t => t.pc == 0x304#16) := by decide

/-- CF10: N = 7 is ignored. -/
theorem test_seReg_ignores_n :
    shows (runWord ((boot.given 1 3).given 2 3) 0x5127) (fun t => t.pc == 0x204#16) := by decide

/-- CF11: X = Y never skips; N = 3 is ignored. -/
theorem test_sneReg_same :
    shows (runWord (boot.given 1 3) 0x9113) (fun t => t.pc == 0x202#16) := by decide

/-- CF12. -/
theorem test_sneReg :
    shows (runWord ((boot.given 1 1).given 2 2) 0x9120) (fun t => t.pc == 0x204#16) := by decide

/-- CF14. -/
theorem test_jpV0_past_memory :
    shows (runWord (boot.given 0 0xFF) 0xBFFF)
      (fun t => t.pc == 0x10FE#16 && t.outcome == some .executed) := by decide

/-! ## Index register and memory (section 4) -/

/-- IM1. -/
theorem test_ldI : shows (runWord boot 0xA300) (fun t => t.i == 0x300#16) := by decide

/-- IM6: the old VF is added, then overwritten by the flag. -/
theorem test_addI_from_vf :
    shows (runWord { boot.given 0xF 0x10 with i := 0x0FF0 } 0xFF1E)
      (fun t => t.i == 0x1000#16 && t.readReg 0xF == 1#8) := by decide

/-- IM7: modulo 2^16, the flag from the untruncated sum. -/
theorem test_addI_wraps :
    shows (runWord { boot.given 0 0x10 with i := 0xFFF8 } 0xF01E)
      (fun t => t.i == 0x0008#16 && t.readReg 0xF == 1#8) := by decide

/-- IM11: no nibble mask. -/
theorem test_ldFont_whole_byte :
    shows (runWord (boot.given 0 0xFF) 0xF029) (fun t => t.i == 0x54B#16) := by decide

/-- IM10: FONT_ADDR_MULT = 1. -/
theorem test_ldFont_times_one :
    shows (runWord ((boot.under fun c => { c with fontAddrMult := .one }).given 0 0xA) 0xF029)
      (fun t => t.i == 0x05A#16) := by decide

/-- IM15: no byte is written. -/
theorem test_ldBcd_faults :
    shows (runWord { boot.given 0 254 with i := 0xFFE } 0xF033)
      (fun t => faulted ⟨.addressOutOfRange, 0x200, 0xF033, true, 0x1000⟩ t
        && t.readMem 0xFFE == 0#8 && t.readMem 0xFFF == 0#8) := by decide

/-- IM17: under Clamp the last write wins. -/
theorem test_ldBcd_clamps :
    shows (runWord { (boot.under clamp).given 0 254 with i := 0xFFE } 0xF033)
      (fun t => t.readMem 0xFFE == 2#8 && t.readMem 0xFFF == 4#8) := by decide

/-- IM18. -/
theorem test_storeRegs :
    shows (runWord { ((boot.given 0 1).given 1 2).given 2 3 with i := 0x400 } 0xF255)
      (fun t => t.readMem 0x400 == 1#8 && t.readMem 0x401 == 2#8 && t.readMem 0x402 == 3#8
        && t.readMem 0x403 == 0#8 && t.i == 0x400#16) := by decide

/-- IM21: under Wrap the range goes on at address 0. -/
theorem test_storeRegs_wraps :
    shows (runWord { ((((boot.under wrap).given 0 1).given 1 2).given 2 3).given 3 4 with
        i := 0xFFE } 0xF355)
      (fun t => t.readMem 0xFFE == 1#8 && t.readMem 0xFFF == 2#8 && t.readMem 0x000 == 3#8
        && t.readMem 0x001 == 4#8) := by decide

/-- IM23. -/
theorem test_loadRegs :
    shows (runWord { boot.writeMem [(0x300, 1), (0x301, 5), (0x302, 7)] with i := 0x300 } 0xF265)
      (fun t => t.readReg 0 == 1#8 && t.readReg 1 == 5#8 && t.readReg 2 == 7#8
        && t.readReg 3 == 0#8 && t.i == 0x300#16) := by decide

/-- IM25: no register is loaded. -/
theorem test_loadRegs_faults :
    shows (runWord { boot.writeMem [(0xFFF, 9)] with i := 0xFFF } 0xF165)
      (fun t => faulted ⟨.addressOutOfRange, 0x200, 0xF165, true, 0x1000⟩ t
        && t.readReg 0 == 0#8 && t.readReg 1 == 0#8) := by decide

/-! ## Display (section 5) -/

/-- DS1, on a buffer of all set cells. -/
theorem test_cls :
    shows (runWord { boot.given 0xF 5 with fb := Vector.replicate 32 (BitVec.allOnes 64) } 0x00E0)
      (fun t => t.fb == Vector.replicate 32 0#64 && t.readReg 0xF == 5#8) := by decide

/-- DS5 with DS4: a set bit over a set cell clears it and collides, a clear bit leaves its cell. -/
theorem test_drw_collision :
    shows (runWord { boot.writeMem [(0x300, 0xC0)] with i := 0x300, fb := boot.fb.set 0 0b101 } 0xD011)
      (fun t => !t.pixel 0 0 && t.pixel 1 0 && t.pixel 2 0 && t.readReg 0xF == 1#8) := by decide

/-- DS7: rows 32 to 34 are clipped. -/
theorem test_drw_clips_rows :
    shows (runWord { (boot.given 1 30).writeMem [(0x300, 0xFF), (0x301, 0xFF), (0x302, 0xFF),
        (0x303, 0xFF), (0x304, 0xFF)] with i := 0x300 } 0xD015)
      (fun t => cells t 29 == 0 && cells t 30 == 8 && cells t 31 == 8 && cells t 0 == 0
        && t.readReg 0xF == 0#8) := by decide

/-! ## Keys and timers (section 6) -/

/-- KT1. -/
theorem test_skp :
    shows (runWord { boot.given 5 0xA with pc := 0x220, keys := 0x400 } 0xE59E)
      (fun t => t.pc == 0x224#16) := by decide

/-- KT5. -/
theorem test_skp_faults :
    shows (runWord { boot.given 5 0x10 with pc := 0x220, keys := 1 } 0xE59E)
      (faulted ⟨.keyIndexOutOfRange, 0x220, 0xE59E, true, 0x10⟩) := by decide

/-- KT3. -/
theorem test_sknp :
    shows (runWord { boot.given 5 0xA with pc := 0x220 } 0xE5A1)
      (fun t => t.pc == 0x224#16) := by decide

/-- KT6, with the opposite test: key 1 is pressed, so EXA1 does not skip. -/
theorem test_sknp_low_nibble :
    shows (runWord { (boot.under fun c => { c with keyIndexMode := .lowNibble }).given 5 0x11 with
        pc := 0x220, keys := 2 } 0xE5A1)
      (fun t => t.pc == 0x222#16) := by decide

/-- KT7: the lowest of keys 3 and 7. -/
theorem test_ldVxKey_latches :
    shows (runWord { boot with keys := 0x0088 } 0xF00A)
      (fun t => t.readReg 0 == 3#8 && t.pc == 0x202#16 && t.mode == .running
        && t.outcome == some (.keyLatched 0 3)) := by decide

/-- KT9. -/
theorem test_ldVxKey_waits :
    shows (runWord boot 0xF30A)
      (fun t => t.mode == .awaitingKey 3 && t.pc == 0x202#16
        && t.outcome == some (.enteredWait 3)) := by decide

/-- KT11. -/
theorem test_wait_latches :
    shows (send { boot with mode := .awaitingKey 3, pc := 0x202 } (.cycle 0x0004 0))
      (fun t => t.readReg 3 == 2#8 && t.mode == .running && t.pc == 0x202#16
        && t.outcome == some (.keyLatched 3 2)) := by decide

/-- KT12. -/
theorem test_ldVxDt :
    shows (runWord { boot with dt := 2 } 0xF107) (fun t => t.readReg 1 == 2#8) := by decide

/-- KT13. -/
theorem test_ldDtVx : shows (runWord (boot.given 0 3) 0xF015) (fun t => t.dt == 3#8) := by decide

/-- KT14. -/
theorem test_ldStVx :
    shows (runWord (boot.given 2 0x10) 0xF218)
      (fun t => t.st == 0x10#8 && t.soundActive) := by decide

/-- KT17 and KT19: Tick while Halted. -/
theorem test_tick_halted :
    shows (send { boot with mode := .halted, dt := 0, st := 3 } .tick)
      (fun t => t.dt == 0#8 && t.st == 2#8 && t.mode == .halted) := by decide

/-! ## Fetch, Reset and Load (sections 7 and 8) -/

/-- FD1. -/
theorem test_unmatched_reports :
    shows (runWord (boot.given 0xF 7) 0x0000)
      (fun t => t.outcome == some (.unknown 0 0x200) && t.diag == some ⟨0, 0x200⟩
        && t.pc == 0x202#16 && t.readReg 0xF == 7#8) := by decide

/-- FD9: alignment before the address. -/
theorem test_fetch_misaligned :
    shows (send { boot with pc := 0x1001 } (.cycle 0 0))
      (faulted ⟨.misalignedFetch, 0x1001, 0, false, 0x1001⟩) := by decide

/-- FD11: pc + 1 is out of range. -/
theorem test_fetch_second_byte :
    shows (send { boot.under relaxed with pc := 0x0FFF } (.cycle 0 0))
      (faulted ⟨.addressOutOfRange, 0x0FFF, 0, false, 0x1000⟩) := by decide

/-- FD12: pc wraps from 0xFFFE to 0. -/
theorem test_fetch_wraps :
    shows (runWord { boot.under wrap with pc := 0xFFFE } 0x6A01)
      (fun t => t.readReg 0xA == 1#8 && t.pc == 0#16) := by decide

/-- CF16: under Clamp both bytes come from 0xFFF. -/
theorem test_fetch_clamps :
    shows (send { (boot.under clamp).writeMem [(0xFFF, 0x62)] with pc := 0x10FE } (.cycle 0 0))
      (fun t => t.readReg 2 == 0x62#8 && t.pc == 0x1100#16) := by decide

/-- RL2. -/
theorem test_load :
    shows (send State.reset (.load [0x12, 0x00, 0xAB, 0xCD]))
      (fun t => t.readMem 0x200 == 0x12#8 && t.readMem 0x203 == 0xCD#8 && t.mode == .running
        && t.pc == 0x200#16 && t.outcome == some (.loaded 4)) := by decide

/-- RL5. -/
theorem test_load_refused :
    shows (send boot (.load [1]))
      (fun t => t.readMem 0x200 == 0#8 && t.outcome == some .loadRefused) := by decide

/-- RL6: Reset leaves Halted; the font is back (default table, glyph 0 row 0). -/
theorem test_reset :
    shows (send { (boot.given 3 9).writeMem [(0x50, 1)] with mode := .halted, sp := 16 } .reset)
      (fun t => t.readReg 3 == 0#8 && t.readMem 0x50 == 0xF0#8 && t.sp.val == 0
        && t.mode == .reset && t.pc == 0x200#16) := by decide

/-- R41: the outputs of a halted machine. -/
theorem test_outputs_of_fault :
    shows (runWord { boot with pc := 0x300 } 0x00EE)
      (fun t => t.modeCode == 3#2 && t.waitReg == 0#4 && t.faultCode == 2#3 && t.faultPc == 0x300#16
        && t.faultOpcode == 0x00EE#16 && t.faultOpcodeValid && t.faultAddr == 0#17) := by decide

/-! ## Witnesses: a state and operands that meet the hypotheses of each obligation, clause by clause -/

theorem reaches_of_all {s : State} {n : Nat}
    (h : ∀ k < n, s.i.toNat + k < memSize ∨ s.cfg.addrMode ≠ .fault) : Reaches s n := by
  intro k hk
  unfold resolve
  by_cases hlt : s.i.toNat + k < memSize
  · exact ⟨_, if_pos hlt⟩
  · rw [if_neg hlt]
    cases hm : s.cfg.addrMode with
    | fault => exact absurd hm ((h k hk).resolve_left hlt)
    | wrap => exact ⟨_, rfl⟩
    | clamp => exact ⟨_, rfl⟩

/-- Running at `pc` with one Cycle to come. -/
def cycleAt (s : State) (pc : Word) : State := { s with pc := pc, pending := [.cycle 0 0] }

theorem witness_EncodeOfDecodeIsTheWord : decodeWord 0x5127#16 = .ok (.seReg 1 2 7) := by decide

theorem witness_DecodeSelectsTheUniqueRow :
    decodeWord 0x800E#16 = .ok (.shlReg 0 0) ∧ decodeWord 0x800F#16 = .error (.unmatched 0x800F#16) := by
  decide

/-- Each family's unmatched words, next to a matched one. -/
theorem witness_UnmatchedWordsByFamily :
    decodeWord 0x00DF#16 = .error (.unmatched 0x00DF#16) ∧ decodeWord 0x00E0#16 = .ok .cls ∧
    decodeWord 0x8FF8#16 = .error (.unmatched 0x8FF8#16) ∧ decodeWord 0x8FF7#16 = .ok (.subnReg 15 15) ∧
    decodeWord 0xEF9F#16 = .error (.unmatched 0xEF9F#16) ∧ decodeWord 0xEF9E#16 = .ok (.skp 15) ∧
    decodeWord 0xFF66#16 = .error (.unmatched 0xFF66#16) ∧ decodeWord 0xFF65#16 = .ok (.loadRegs 15) := by
  decide

/-- The last aligned pc inside memory, under PC_ALIGN = Strict. -/
theorem witness_StepRunsDecodedInstruction :
    let s := cycleAt (boot.writeMem [(0xFFE, 0x12), (0xFFF, 0x34)]) 0xFFE
    s.pending = .cycle 0 0 :: [] ∧ s.mode = .running ∧
    (s.cfg.pcAlign = .strict → s.pc.toNat % 2 = 0) ∧
    resolve s.cfg s.pc.toNat = .ok 0xFFE ∧ resolve s.cfg (s.pc.toNat + 1) = .ok 0xFFF ∧
    decodeWord (s.readMem 0xFFE ++ s.readMem 0xFFF) = .ok (.jp 0x234) :=
  ⟨rfl, rfl, by decide, rfl, rfl, by decide⟩

/-- The same where the two addresses coincide, under Clamp. -/
theorem witness_StepRunsDecodedInstruction_clamp :
    let s := cycleAt ((boot.under clamp).writeMem [(0xFFF, 0x62)]) 0x1000
    s.pending = .cycle 0 0 :: [] ∧ s.mode = .running ∧
    (s.cfg.pcAlign = .strict → s.pc.toNat % 2 = 0) ∧
    resolve s.cfg s.pc.toNat = .ok 0xFFF ∧ resolve s.cfg (s.pc.toNat + 1) = .ok 0xFFF ∧
    decodeWord (s.readMem 0xFFF ++ s.readMem 0xFFF) = .ok (.ldImm 2 0x62) :=
  ⟨rfl, rfl, by decide, rfl, rfl, by decide⟩

theorem witness_UnmatchedWordOnlyReports :
    let s := cycleAt boot 0x200
    s.pending = .cycle 0 0 :: [] ∧ s.mode = .running ∧
    (s.cfg.pcAlign = .strict → s.pc.toNat % 2 = 0) ∧
    resolve s.cfg s.pc.toNat = .ok 0x200 ∧ resolve s.cfg (s.pc.toNat + 1) = .ok 0x201 ∧
    s.readMem 0x200 ++ s.readMem 0x201 = 0x0000#16 ∧
    decodeWord 0x0000#16 = .error (.unmatched 0x0000#16) :=
  ⟨rfl, rfl, by decide, rfl, rfl, by decide, by decide⟩

theorem witness_OddFetchFaultsFirst :
    let s := cycleAt boot 0x1001
    s.pending = .cycle 0 0 :: [] ∧ s.mode = .running ∧ s.cfg.pcAlign = .strict ∧
    s.pc.toNat % 2 = 1 := ⟨rfl, rfl, rfl, rfl⟩

/-- pc itself out of range. -/
theorem witness_FetchOutOfRangeFaults :
    let s := cycleAt boot 0x1000
    s.pending = .cycle 0 0 :: [] ∧ s.mode = .running ∧
    (s.cfg.pcAlign = .strict → s.pc.toNat % 2 = 0) ∧ s.cfg.addrMode = .fault ∧
    4095 ≤ s.pc.toNat ∧ 4096 ≤ s.pc.toNat := ⟨rfl, rfl, by decide, rfl, by decide, by decide⟩

/-- Only pc + 1 out of range. -/
theorem witness_FetchOutOfRangeFaults_second :
    let s := cycleAt (boot.under relaxed) 0x0FFF
    s.pending = .cycle 0 0 :: [] ∧ s.mode = .running ∧
    (s.cfg.pcAlign = .strict → s.pc.toNat % 2 = 0) ∧ s.cfg.addrMode = .fault ∧
    4095 ≤ s.pc.toNat ∧ ¬ 4096 ≤ s.pc.toNat := ⟨rfl, rfl, by decide, rfl, by decide, by decide⟩

theorem witness_CycleOutsideRunningDoesNothing :
    let s := cycleAt State.reset 0x200
    let h := { s with mode := Mode.halted }
    s.pending = .cycle 0 0 :: [] ∧ s.mode = .reset ∧ h.pending = .cycle 0 0 :: [] ∧
    h.mode = .halted := ⟨rfl, rfl, rfl, rfl⟩

/-- No key; the lowest key there is; the highest. -/
theorem witness_KeyWaitPoll :
    let s := { boot with mode := .awaitingKey 3, pending := [.cycle 0 0] }
    s.pending = .cycle 0 0 :: [] ∧ s.mode = .awaitingKey 3 ∧
    ((0x8001#16).getLsbD (0#4).toNat = true ∧ ∀ j < (0#4).toNat, (0x8001#16).getLsbD j = false) ∧
    ((0x8000#16).getLsbD (15#4).toNat = true ∧ ∀ j < (15#4).toNat, (0x8000#16).getLsbD j = false) :=
  ⟨rfl, rfl, by decide, by decide⟩

theorem witness_TickCountsDownInEveryMode :
    { boot with pending := [.tick], dt := 0, st := 255 }.pending = .tick :: [] := rfl

theorem witness_TicksRunTimersDownToZero :
    { boot with pending := [.tick, .tick, .tick], dt := 2 }.pending = List.replicate 3 .tick := rfl

theorem witness_ResetTransactionSetsResetValues :
    { boot with pending := [.reset, .tick], mode := .halted }.pending = .reset :: [.tick] := rfl

/-- The empty image and the longest that fits. -/
theorem witness_LoadPlacesImageAndStarts :
    let s := { State.reset with pending := [.load [], .load (List.replicate 3584 1)] }
    s.pending = .load [] :: [.load (List.replicate 3584 1)] ∧ s.mode = .reset ∧
    ([] : List Byte).length ≤ 3584 ∧ (List.replicate 3584 (1 : Byte)).length ≤ 3584 ∧
    MemoryCanonical s := ⟨rfl, rfl, by decide, by rw [List.length_replicate], rfl⟩

/-- One byte too many, under both values of LOAD_OVERSIZE. -/
theorem witness_OversizeImageIsCutOrRejected :
    let s := { State.reset with pending := [.load (List.replicate 3585 1)] }
    let r := s.under fun c => { c with loadOversize := .reject }
    s.pending = .load (List.replicate 3585 1) :: [] ∧ s.mode = .reset ∧
    3584 < (List.replicate 3585 (1 : Byte)).length ∧ s.cfg.loadOversize = .truncate ∧
    MemoryCanonical s ∧ r.pending = s.pending ∧ r.mode = .reset ∧ r.cfg.loadOversize = .reject :=
  ⟨rfl, rfl, by rw [List.length_replicate]; decide, rfl, rfl, rfl, rfl, rfl⟩

theorem witness_LoadIsRefusedOnceStarted :
    let s := { boot with pending := [.load [1]] }
    s.pending = .load [1] :: [] ∧ s.mode ≠ .reset := ⟨rfl, by decide⟩

/-- A fault of an instruction (00EE on the empty stack) and one of the fetch. -/
theorem witness_FaultsArePrecise :
    (let s := cycleAt (boot.writeMem [(0x201, 0xEE)]) 0x200
     s.pending = .cycle 0 0 :: [] ∧ s.mode = .running ∧ ∃ t, step s = .next t ∧ t.mode = .halted) ∧
    (let s := cycleAt boot 0x201
     s.pending = .cycle 0 0 :: [] ∧ s.mode = .running ∧ ∃ t, step s = .next t ∧ t.mode = .halted) :=
  ⟨⟨rfl, rfl, _, rfl, rfl⟩, ⟨rfl, rfl, _, rfl, rfl⟩⟩

/-- The destination is VF, and is not. -/
theorem witness_AddRegistersSetsCarry : (0xE#4 : Nibble) ≠ 0xF#4 ∧ ¬ (0xF#4 : Nibble) ≠ 0xF#4 := by decide

theorem witness_SubtractRegistersSetsNoBorrow : (0x0#4 : Nibble) ≠ 0xF#4 := by decide

/-- Both values of SHIFT_SOURCE, where they differ. -/
theorem witness_ShiftsTakeTheConfiguredSource :
    (let s := (boot.under vy).given 2 5
     (5 : Byte) = (if s.cfg.shiftSource = .vy then s.readReg 2 else s.readReg 1)) ∧
    (let s := (boot.under vx).given 2 5
     (0 : Byte) = (if s.cfg.shiftSource = .vy then s.readReg 2 else s.readReg 1)) := by decide

/-- The last free entry, and none. -/
theorem witness_CallPushesReturnAddress :
    { boot with sp := 15 }.sp.val < 16 ∧ { boot with sp := 16 }.sp.val = 16 := by decide

/-- The full stack, one entry, and none. -/
theorem witness_ReturnPopsIntoPc :
    0 < { boot with sp := 16 }.sp.val ∧ 0 < { boot with sp := 1 }.sp.val ∧ boot.sp.val = 0 := by decide

theorem witness_CallThenReturnComesBack : { boot with sp := 15 }.sp.val < 16 := by decide

/-- The last glyph, the reset font. -/
theorem witness_FontAddressPointsAtGlyph :
    let s := boot.given 0 15
    s.cfg.wellFormed = true ∧ s.cfg.fontAddrMult = .five ∧ (s.readReg 0).toNat ≤ 15 ∧
    (∀ j (h : j < 80), s.readMem (s.cfg.fontBase + j) = s.cfg.fontTable[j]) :=
  ⟨rfl, rfl, by decide, by decide⟩

/-- The last place inside memory, and one that wraps; the first address out, and only the last one. -/
theorem witness_DecimalStoreWritesDigits :
    (MemoryCanonical { boot with i := 0xFFD } ∧ Reaches { boot with i := 0xFFD } 3) ∧
    (MemoryCanonical { boot.under wrap with i := 0xFFFF } ∧
      Reaches { boot.under wrap with i := 0xFFFF } 3) ∧
    FirstOutOfRange { boot with i := 0x1000 } 3 0 ∧ FirstOutOfRange { boot with i := 0xFFE } 3 2 :=
  ⟨⟨rfl, reaches_of_all (by decide)⟩, ⟨rfl, reaches_of_all (by decide)⟩,
    by unfold FirstOutOfRange; decide, by unfold FirstOutOfRange; decide⟩

theorem witness_DecimalDigitsRebuildTheValue :
    MemoryCanonical { boot with i := 0xFFD } ∧ { boot with i := 0xFFD }.i.toNat + 2 < 4096 :=
  ⟨rfl, by decide⟩

/-- V0 alone in the last byte, and all sixteen registers under Clamp; the first and the last address
out. -/
theorem witness_StoreRegistersWritesRange :
    (MemoryCanonical { boot with i := 0xFFF } ∧ Reaches { boot with i := 0xFFF } ((0#4).toNat + 1)) ∧
    (MemoryCanonical { boot.under clamp with i := 0xFFF } ∧
      Reaches { boot.under clamp with i := 0xFFF } ((15#4).toNat + 1)) ∧
    FirstOutOfRange { boot with i := 0x1000 } ((0#4).toNat + 1) 0 ∧
    FirstOutOfRange { boot with i := 0xFF1 } ((15#4).toNat + 1) 15 :=
  ⟨⟨rfl, reaches_of_all (by decide)⟩, ⟨rfl, reaches_of_all (by decide)⟩,
    by unfold FirstOutOfRange; decide, by unfold FirstOutOfRange; decide⟩

theorem witness_LoadRegistersReadsRange :
    Reaches { boot with i := 0xFF0 } ((15#4).toNat + 1) ∧
    Reaches { boot.under wrap with i := 0xFFFF } ((0#4).toNat + 1) ∧
    FirstOutOfRange { boot with i := 0x1000 } ((0#4).toNat + 1) 0 ∧
    FirstOutOfRange { boot with i := 0xFF1 } ((15#4).toNat + 1) 15 :=
  ⟨reaches_of_all (by decide), reaches_of_all (by decide),
    by unfold FirstOutOfRange; decide, by unfold FirstOutOfRange; decide⟩

theorem witness_StoredRegistersLoadBack :
    ∃ t u : State, let s := { boot.given 1 7 with i := 0xFFE }
      MemoryCanonical s ∧ s.i.toNat + (1#4).toNat < 4096 ∧ exec (.storeRegs 1) s = .next t ∧
      u.mem = t.mem ∧ u.cfg = t.cfg ∧ u.i = t.i ∧ u.readReg 1 ≠ t.readReg 1 :=
  ⟨_, State.given _ 1 9, rfl, by decide, rfl, rfl, rfl, rfl, by decide⟩

/-- The last address inside and the first outside, in each mode. -/
theorem witness_ResolveFollowsAddrMode :
    4095 < 4096 ∧ 4096 ≤ 4096 ∧ Config.default.addrMode = .fault ∧
    (wrap Config.default).addrMode = .wrap ∧ (clamp Config.default).addrMode = .clamp := by decide

theorem witness_CanonicalMemoriesAreEqual :
    Memory.wf Config.default [(0x300, 5)] = true ∧
    ∀ a, Memory.read Config.default [(0x300, 5)] a = Memory.read Config.default [(0x300, 5)] a :=
  ⟨rfl, fun _ => rfl⟩

/-- The last two bytes under Strict, an odd pc under Relaxed. -/
theorem witness_FetchSeesStoredWord :
    (let s := { boot with pc := 0xFFE }
     MemoryCanonical s ∧ (s.cfg.pcAlign = .strict → s.pc.toNat % 2 = 0) ∧ s.pc.toNat + 1 < 4096) ∧
    (let s := { boot.under relaxed with pc := 0x201 }
     MemoryCanonical s ∧ (s.cfg.pcAlign = .strict → s.pc.toNat % 2 = 0) ∧ s.pc.toNat + 1 < 4096) :=
  ⟨⟨rfl, by decide, by decide⟩, ⟨rfl, by decide, by decide⟩⟩

/-- No row at all, and fifteen rows that end at the last byte; the first and the last address out. -/
theorem witness_DrawXorsVisibleCells :
    Reaches { boot with i := 0xFFFF } (0#4).toNat ∧ Reaches { boot with i := 0xFF1 } (15#4).toNat ∧
    FirstOutOfRange { boot with i := 0x1000 } (1#4).toNat 0 ∧
    FirstOutOfRange { boot with i := 0xFF2 } (15#4).toNat 14 :=
  ⟨reaches_of_all (by decide), reaches_of_all (by decide),
    by unfold FirstOutOfRange; decide, by unfold FirstOutOfRange; decide⟩

theorem witness_DrawingTwiceRestoresDisplay :
    ∃ t u : State, let s := { boot.writeMem [(0xFFF, 0xF0)] with i := 0xFFF }
      (0#4 : Nibble) ≠ 0xF#4 ∧ (1#4 : Nibble) ≠ 0xF#4 ∧ Reaches s (1#4).toNat ∧
      exec (.drw 0 1 1) s = .next t ∧ exec (.drw 0 1 1) t = .next u ∧
      s.pixel 3 0 = false ∧ t.pixel 3 0 = true :=
  ⟨_, _, by decide, by decide, reaches_of_all (by decide), rfl, rfl, by decide, by decide⟩

/-- The last key and the first index past it, in both modes. -/
theorem witness_KeySkipsTestTheNamedKey :
    ((boot.given 5 15).readReg 5).toNat ≤ 15 ∧
    (boot.under fun c => { c with keyIndexMode := .lowNibble }).cfg.keyIndexMode = .lowNibble ∧
    15 < ((boot.given 5 16).readReg 5).toNat ∧ (boot.given 5 16).cfg.keyIndexMode = .fault := by decide

theorem witness_KeyWaitInstruction :
    boot.keys = 0#16 ∧
    (let s := { boot with keys := 0x8000 }
     s.keys.getLsbD (15#4).toNat = true ∧ ∀ j < (15#4).toNat, s.keys.getLsbD j = false) :=
  ⟨rfl, by decide⟩

/-- The last cell, a waiting machine, one with a record, one with none. -/
theorem witness_OutputsShowTheState :
    63 < 64 ∧ 31 < 32 ∧ { boot with mode := .awaitingKey 15 }.mode = .awaitingKey 15 ∧
    (∀ x, boot.mode ≠ .awaitingKey x) ∧ boot.fault = none ∧
    ∃ r, { boot with fault := some ⟨.keyIndexOutOfRange, 0x220, 0xE59E, true, 0x10⟩ }.fault = some r :=
  ⟨by decide, by decide, rfl, fun x (h : Mode.running = .awaitingKey x) => Mode.noConfusion h, rfl,
    ⟨.keyIndexOutOfRange, 0x220, 0xE59E, true, 0x10⟩, rfl⟩

/-- A step that stores: FX55 with V0 = 9 at 0x400. -/
theorem witness_StepKeepsMemoryCanonical :
    ∃ t : State, let s := { boot.given 0 9 with i := 0x400 }.withFetchWord 16 0xF055
      MemoryCanonical s ∧ step s = .next t ∧ t.readMem 0x400 = 9#8 :=
  ⟨_, rfl, rfl, by decide⟩

/-- A record as CF5 leaves it. -/
def halted : State :=
  { boot with
    mode := .halted, pc := 0x300, sp := 16, fault := some ⟨.stackOverflow, 0x300, 0x2400, true, 0⟩ }

theorem halted_matches : HaltedMatchesRecord halted :=
  ⟨⟨fun _ => by decide, fun _ => rfl⟩, fun r h => by cases h; rfl⟩

theorem halted_truthful : FaultTruthful halted := by
  intro r h
  cases h
  exact ⟨rfl, fun _ => ⟨.call 0x400, by decide, rfl⟩, by decide⟩

theorem witness_StepKeepsHaltedMatchesRecord :
    HaltedMatchesRecord halted ∧
    ∃ t, step { halted with pending := [.cycle 0 0] } = .next t ∧ t.mode = .halted :=
  ⟨halted_matches, _, rfl, rfl⟩

theorem witness_StepKeepsFaultTruthful :
    FaultTruthful halted ∧
    ∃ t, step { halted with pending := [.cycle 0 0] } = .next t ∧ t.fault = halted.fault :=
  ⟨halted_truthful, _, rfl, rfl⟩

theorem witness_HaltedLastsUntilReset :
    let s := { halted with pending := [.cycle 1 2, .tick, .load [1]] }
    s.mode = .halted ∧ ∀ t ∈ s.pending.take 3, t ≠ .reset := ⟨rfl, by decide⟩

/-- Each clause has an instruction that changes that state. -/
theorem witness_EachStateHasItsWriters :
    (∃ t, exec (.drw 0 0 1) { boot with i := 0x50 } = .next t ∧ t.fb ≠ boot.fb) ∧
    (∃ t, exec (.storeRegs 0) { boot.given 0 1 with i := 0x300 } = .next t ∧ t.mem ≠ boot.mem) ∧
    (∃ t, exec (.ldI 0x300) boot = .next t ∧ t.i ≠ boot.i) ∧
    (∃ t, exec (.call 0x300) boot = .next t ∧ (t.stack ≠ boot.stack ∨ t.sp ≠ boot.sp)) ∧
    (∃ t, exec (.ldDtVx 0) (boot.given 0 1) = .next t ∧ t.dt ≠ boot.dt) ∧
    (∃ t, exec (.ldStVx 0) (boot.given 0 1) = .next t ∧ t.st ≠ boot.st) :=
  ⟨⟨_, rfl, by decide⟩, ⟨_, rfl, by decide⟩, ⟨_, rfl, by decide⟩, ⟨_, rfl, by decide⟩,
    ⟨_, rfl, by decide⟩, ⟨_, rfl, by decide⟩⟩

theorem witness_OnlyFlagWritersAndDestinationsChangeVF :
    (∃ t, exec (.addI 0) { boot with i := 0x1000 } = .next t ∧ t.readReg 0xF#4 ≠ boot.readReg 0xF#4) ∧
    (∃ t, exec (.ldImm 0xF 9) boot = .next t ∧ t.readReg 0xF#4 ≠ boot.readReg 0xF#4) :=
  ⟨⟨_, rfl, by decide⟩, ⟨_, rfl, by decide⟩⟩

/-- An instruction that goes on, one that faults, one that waits. -/
theorem witness_OnlyKeyWaitSuspends :
    (∃ t, exec .cls boot = .next t ∧ t.mode = boot.mode) ∧
    (∃ t, exec .ret boot = .next t ∧ t.mode = .halted) ∧
    (∃ t, exec (.ldVxKey 3) boot = .next t ∧ t.mode = .awaitingKey 3) :=
  ⟨⟨_, rfl, rfl⟩, ⟨_, rfl, rfl⟩, ⟨_, rfl, rfl⟩⟩

/-- An instruction that reads no input, and a Cycle with inputs. -/
theorem witness_InputsReachOnlyTheirReaders :
    (∃ t, exec (.ldImm 0 1) boot = .next t) ∧
    ((∀ x, Instr.ldImm 0 1 ≠ .skp x ∧ Instr.ldImm 0 1 ≠ .sknp x ∧ Instr.ldImm 0 1 ≠ .ldVxKey x) ∧
      ∀ x nn, Instr.ldImm 0 1 ≠ .rnd x nn) ∧
    (let s := { boot with pending := [.cycle 0x8001 0xA7] }
     s.pending = .cycle 0x8001 0xA7 :: [] ∧ ∃ t, step s = .next t) :=
  ⟨⟨_, rfl⟩, ⟨fun _ => ⟨nofun, nofun, nofun⟩, fun _ _ => nofun⟩, rfl, _, rfl⟩

theorem witness_StepAlwaysAnswersAndKeepsConfig :
    InputsIdle { boot with pending := [.cycle 0x8001 0xA7] } := ⟨rfl, rfl⟩

end Sys2Proof.Tests
end

