-- ==== Sys2Proof/Proofs/ResetState.lean ====
section
/-! PROOF. What the reset state reads as (R44), through the reading operations. -/

namespace Sys2Proof.Machine

@[simp] theorem reset_readReg (x : Nibble) : State.reset.readReg x = 0#8 := by
  simp [State.readReg, State.reset]

@[simp] theorem reset_stack_getElem {k : Nat} (h : k < 16) : State.reset.stack[k] = 0#16 := by
  simp [State.reset]

/-- A blank display shows no cell, inside the grid or outside. -/
@[simp] theorem pixelAt_blank (x y : Nat) : pixelAt (Vector.replicate 32 0#64) x y = false := by
  unfold pixelAt
  split
  · simp
  · rfl

@[simp] theorem reset_pixel (x y : Nat) : State.reset.pixel x y = false := pixelAt_blank x y

/-- A memory that lists no cell reads as the reset contents (log 6). -/
theorem readMem_of_mem_nil {s : State} (h : s.mem = []) (a : Nat) :
    s.readMem a = resetByte s.cfg a := by
  simp only [State.readMem, h, Memory.read]

/-- Settles O19: the registers, the stack and the display are the zeros of their constant vectors, and
the empty memory reads as the reset contents, which are the font at FONT_BASE and 0 elsewhere. -/
theorem resetStateHoldsResetValues : Obligations.ResetStateHoldsResetValues := by
  have hmem : ∀ a, State.reset.readMem a = resetByte State.reset.cfg a := readMem_of_mem_nil rfl
  have hfont : ∀ j (h : j < 80), State.reset.readMem (State.reset.cfg.fontBase + j)
      = State.reset.cfg.fontTable[j] := fun _ h => (hmem _).trans (resetByte_font _ h)
  have hzero : ∀ a, a < State.reset.cfg.fontBase ∨ State.reset.cfg.fontBase + 80 ≤ a →
      State.reset.readMem a = 0#8 := fun a h => (hmem a).trans (resetByte_elsewhere _ h)
  exact ⟨reset_readReg, rfl, rfl, fun _ h => reset_stack_getElem h, rfl, rfl, rfl, reset_pixel,
    hfont, hzero, rfl, rfl, rfl⟩

end Sys2Proof.Machine
end

