-- ==== Sys2Proof/Proofs/Memory.lean ====
section
/-! PROOF. What an effective address resolves to under each ADDR_MODE (R49). -/

namespace Sys2Proof.Machine

/-- Settles O40: of the four exclusive cases of Resolve, the one that holds answers its own clause, and
its bound on `ea` or its mode contradicts the premises of the other three. -/
theorem resolveFollowsAddrMode : Obligations.ResolveFollowsAddrMode := by
  intro c ea
  rcases resolve_cases c ea with ⟨hlt, hr⟩ | ⟨hge, hm, hr⟩ | ⟨hge, hm, hr⟩ | ⟨hge, hm, hr⟩
  case inl => simp [hr, Nat.not_le.mpr hlt]
  all_goals simp [hr, hm, Nat.not_lt.mpr hge]

end Sys2Proof.Machine
end

