-- ==== Sys2Proof/Proofs/Encoding.lean ====
section
/-! PROOF. The words that no row of the opcode map selects, family by family (R70, R72, R73). In each
family's switch the last case rejects the word, and its premises say that no listed value applies. -/

namespace Sys2Proof

theorem decodeFamily0_eq_unmatched_iff (w : Word) :
    decodeFamily0 w = .error (.unmatched w) ↔ fieldNNN w ≠ 0x0E0#12 ∧ fieldNNN w ≠ 0x0EE#12 := by
  simp only [ne_eq, ← BitVec.toNat_inj, BitVec.toNat_ofNat]
  unfold decodeFamily0
  split
  case h_3 hE0 hEE => exact iff_of_true rfl ⟨hE0, hEE⟩
  all_goals simp [*]

theorem decodeFamily8_eq_unmatched_iff (w : Word) :
    decodeFamily8 w = .error (.unmatched w) ↔ 0x8 ≤ (fieldN w).toNat ∧ fieldN w ≠ 0xE#4 := by
  simp only [ne_eq, ← BitVec.toNat_inj, BitVec.toNat_ofNat]
  unfold decodeFamily8
  split
  case h_10 hE =>
    have hge : 8 ≤ (fieldN w).toNat := by simp only [imp_false] at *; omega
    exact iff_of_true rfl ⟨hge, hE⟩
  all_goals simp [*]

theorem decodeFamilyE_eq_unmatched_iff (w : Word) :
    decodeFamilyE w = .error (.unmatched w) ↔ fieldNN w ≠ 0x9E#8 ∧ fieldNN w ≠ 0xA1#8 := by
  simp only [ne_eq, ← BitVec.toNat_inj, BitVec.toNat_ofNat]
  unfold decodeFamilyE
  split
  case h_3 h9E hA1 => exact iff_of_true rfl ⟨h9E, hA1⟩
  all_goals simp [*]

theorem decodeFamilyF_eq_unmatched_iff (w : Word) :
    decodeFamilyF w = .error (.unmatched w) ↔
      fieldNN w ∉ [0x07#8, 0x0A#8, 0x15#8, 0x18#8, 0x1E#8, 0x29#8, 0x33#8, 0x55#8, 0x65#8] := by
  simp only [List.mem_cons, List.not_mem_nil, ← BitVec.toNat_inj, BitVec.toNat_ofNat]
  unfold decodeFamilyF
  split
  case h_10 => exact iff_of_true rfl (by simp only [imp_false] at *; simp [*])
  all_goals simp [*]

/-- Settles O5: the leading nibble picks the family. Families 0, 8, E and F answer as their own lemma
says, and every other family decodes. -/
theorem unmatchedWordsByFamily : Obligations.UnmatchedWordsByFamily := by
  intro w
  rw [← decodeFamily0_eq_unmatched_iff, ← decodeFamily8_eq_unmatched_iff,
    ← decodeFamilyE_eq_unmatched_iff, ← decodeFamilyF_eq_unmatched_iff]
  simp only [← BitVec.toNat_inj, BitVec.toNat_ofNat]
  unfold decodeWord
  split
  case h_16 =>
    have hF : (fieldF w).toNat = 15 := by
      have hlt := (fieldF w).isLt
      simp only [imp_false] at *
      omega
    simp [hF]
  all_goals simp [*]

end Sys2Proof
end

