-- ==== Sys2Proof/Proofs/ControlFlow.lean ====
section
/-! PROOF. Control transfer (R90 to R98): the words decode to their instructions, a jump or a skip is a
write of pc and nothing else, and a call or a return is what Push or Pop answers (R28). -/

namespace Sys2Proof

/-! ## The words of the family (R69) -/

theorem decodeWord_jp (nnn : Addr12) : decodeWord (0x1#4 ++ nnn) = .ok (.jp nnn) := by
  simp [decodeWord]

theorem decodeWord_call (nnn : Addr12) : decodeWord (0x2#4 ++ nnn) = .ok (.call nnn) := by
  simp [decodeWord]

theorem decodeWord_seImm (x : Nibble) (nn : Byte) :
    decodeWord (0x3#4 ++ x ++ nn) = .ok (.seImm x nn) := by
  simp [decodeWord]

theorem decodeWord_sneImm (x : Nibble) (nn : Byte) :
    decodeWord (0x4#4 ++ x ++ nn) = .ok (.sneImm x nn) := by
  simp [decodeWord]

theorem decodeWord_seReg (x y n : Nibble) :
    decodeWord (0x5#4 ++ x ++ y ++ n) = .ok (.seReg x y n) := by
  simp [decodeWord]

theorem decodeWord_sneReg (x y n : Nibble) :
    decodeWord (0x9#4 ++ x ++ y ++ n) = .ok (.sneReg x y n) := by
  simp [decodeWord]

theorem decodeWord_jpV0 (nnn : Addr12) : decodeWord (0xB#4 ++ nnn) = .ok (.jpV0 nnn) := by
  simp [decodeWord]

end Sys2Proof

namespace Sys2Proof.Machine

/-! ## Targets (R66, R98) -/

@[simp] theorem target_toNat (nnn : Addr12) : (target nnn).toNat = nnn.toNat := by
  have := nnn.isLt
  simp only [target, BitVec.toNat_setWidth]
  omega

/-- The target of BNNN is at most 0xFFF + 0xFF, so the 16-bit sum is the exact one (R98). -/
theorem target_add_toNat (nnn : Addr12) (b : Byte) :
    (target nnn + b.setWidth 16).toNat = nnn.toNat + b.toNat := by
  have := nnn.isLt
  have := b.isLt
  simp only [BitVec.toNat_add, target_toNat, BitVec.toNat_setWidth]
  omega

/-! ## What completing and faulting leave unchanged -/

/-- A call or a return completed: only pc, the call stack and its depth may differ. -/
def CompletedInStack (s t : State) : Prop :=
  RegsSameBut [] s t ∧ t.i = s.i ∧ TimersSame s t ∧ FbSame s t ∧ MemSame s t ∧
    EngineSame s t ∧ PortsSame s t ∧ t.outcome = some .executed

theorem completedInStack_setStack_setPc (s : State) (k : Vector Word 16) (n : Fin 17) (a : Word) :
    CompletedInStack s (((s.setStack k n).setPc a).report .executed) := by
  simp [CompletedInStack, RegsSameBut, TimersSame, FbSame, MemSame, EngineSame, PortsSame]

theorem regFrame_setPc (s : State) (a : Word) :
    RegFrame [] s ((s.setPc a).report .executed) := by
  simp [RegFrame, RegsSameBut, FbSame, MemSame, RestSame, StackSame, TimersSame, EngineSame, PortsSame]

theorem regFrame_skipIf (s : State) (b : Bool) :
    RegFrame [] s ((s.skipIf b).report .executed) := by
  cases b
  case false => exact regFrame_setPc s s.pc
  case true => exact regFrame_setPc s (s.pc + 2#16)

/-- Fault entry of an instruction is R139's, with the instruction's address and word in the record. -/
theorem faulted_instrFault (i : Instr) (r : Raise) (s : State) :
    Faulted ⟨r.code, s.pc - 2#16, encode i, true, r.addr⟩ s (instrFault i r s) := by
  simp [instrFault_eq, Faulted, SameButFault, PortsSame]

/-! ## Jumps (R91, R98) -/

/-- Settles O26: each jump only writes its target to pc, and neither target reaches 2^16. -/
theorem jumpsWriteTheirTarget : Obligations.JumpsWriteTheirTarget := by
  intro nnn s
  exact ⟨decodeWord_jp nnn, decodeWord_jpV0 nnn,
    ⟨_, rfl, target_toNat nnn, regFrame_setPc s _, rfl⟩,
    ⟨_, rfl, target_add_toNat nnn (s.readReg 0#4), regFrame_setPc s _, rfl⟩⟩

/-! ## Calls and returns (R90, R92) -/

theorem exec_call_of_lt (nnn : Addr12) {s : State} (h : s.sp.val < 16) :
    exec (.call nnn) s = .next (((s.setStack (s.stack.set s.sp.val s.pc h)
      ⟨s.sp.val + 1, by omega⟩).setPc (target nnn)).report .executed) := by
  rcases push_cases s.pc s with ⟨hfull, -⟩ | ⟨_, hpush⟩
  · omega
  · simp only [exec, execCall, hpush, answer, retire_eq]

theorem exec_call_of_full (nnn : Addr12) {s : State} (h : s.sp.val = 16) :
    exec (.call nnn) s = .next (instrFault (.call nnn) ⟨.stackOverflow, 0#17⟩ s) := by
  rcases push_cases s.pc s with ⟨-, hpush⟩ | ⟨hlt, -⟩
  · simp only [exec, execCall, hpush, answer]
  · omega

theorem exec_ret_of_pos {s : State} (h : 0 < s.sp.val) :
    exec .ret s = .next (((s.setStack s.stack ⟨s.sp.val - 1, by have := s.sp.isLt; omega⟩).setPc
      (s.stack[s.sp.val - 1]'(by have := s.sp.isLt; omega))).report .executed) := by
  rcases pop_cases s with ⟨hempty, -⟩ | ⟨_, hpop⟩
  · omega
  · simp only [exec, execRet, hpop, answer, retire_eq]

theorem exec_ret_of_empty {s : State} (h : s.sp.val = 0) :
    exec .ret s = .next (instrFault .ret ⟨.stackUnderflow, 0#17⟩ s) := by
  rcases pop_cases s with ⟨-, hpop⟩ | ⟨hpos, -⟩
  · simp only [exec, execRet, hpop, answer]
  · omega

/-- Settles O27: with room, entry sp of the stack is the one written and everything else is framed; with
16 entries in use the answer is fault entry from the state before. -/
theorem callPushesReturnAddress : Obligations.CallPushesReturnAddress := by
  intro nnn s
  refine ⟨decodeWord_call nnn, fun hroom => ?_, fun hfull => ?_⟩
  · have hentry : ∀ k (hk : k < 16), (s.stack.set s.sp.val s.pc hroom)[k]
        = if k = s.sp.val then s.pc else s.stack[k] := fun k hk => by
      simp only [Vector.getElem_set, eq_comm (a := k)]
    exact ⟨_, exec_call_of_lt nnn hroom, target_toNat nnn, rfl, hentry,
      completedInStack_setStack_setPc s _ _ _⟩
  · exact ⟨_, exec_call_of_full nnn hfull, faulted_instrFault (.call nnn) _ s⟩

/-- Settles O28: with an entry in use, Pop gives it to pc and keeps the store; with none the answer is
fault entry from the state before. -/
theorem returnPopsIntoPc : Obligations.ReturnPopsIntoPc := by
  refine ⟨by decide, fun s => ⟨fun hpos => ?_, fun hempty => ?_⟩⟩
  · exact ⟨_, exec_ret_of_pos hpos, rfl, rfl, rfl, completedInStack_setStack_setPc s _ _ _⟩
  · exact ⟨_, exec_ret_of_empty hempty, faulted_instrFault .ret _ s⟩

/-! ## Skips (R93 to R97) -/

/-- A skip instruction whose test `b` decides the condition `c`: pc moves past one word exactly when `c`
holds, and nothing else changes but the outcome. -/
theorem retire_skipIf (s : State) {b : Bool} {c : Prop} [Decidable c] (hbc : b = true ↔ c) :
    ∃ t, retire (s.skipIf b) = .next t ∧ RegFrame [] s t ∧ t.outcome = some .executed ∧
      t.pc = (if c then s.pc + 2#16 else s.pc) :=
  ⟨_, rfl, regFrame_skipIf s b, rfl, by simp [hbc]⟩

/-- Settles O30: both are skips, on the test for equality and for inequality with NN. -/
theorem skipsOnImmediate : Obligations.SkipsOnImmediate := by
  intro x nn s
  exact ⟨decodeWord_seImm x nn, decodeWord_sneImm x nn,
    retire_skipIf s beq_iff_eq, retire_skipIf s bne_iff_ne⟩

/-- Settles O31: both are skips, on the test for equality and for inequality of the registers, and the
test does not read N. -/
theorem skipsOnRegisters : Obligations.SkipsOnRegisters := by
  intro x y n s
  exact ⟨decodeWord_seReg x y n, decodeWord_sneReg x y n,
    retire_skipIf s beq_iff_eq, retire_skipIf s bne_iff_ne⟩

end Sys2Proof.Machine
end

