-- ==== Sys2Proof/Proofs/Alu.lean ====
section
/-! PROOF. Register arithmetic and logic (R101 to R113): the words decode to their instructions, each
instruction is one register write or a result followed by its flag, and the bytes written are the sums,
differences, halves and doubles of the rules. -/

namespace Sys2Proof

/-! ## The words of the family (R69) -/

theorem decodeWord_ldImm (x : Nibble) (nn : Byte) :
    decodeWord (0x6#4 ++ x ++ nn) = .ok (.ldImm x nn) := by
  simp [decodeWord]

theorem decodeWord_addImm (x : Nibble) (nn : Byte) :
    decodeWord (0x7#4 ++ x ++ nn) = .ok (.addImm x nn) := by
  simp [decodeWord]

theorem decodeWord_rnd (x : Nibble) (nn : Byte) :
    decodeWord (0xC#4 ++ x ++ nn) = .ok (.rnd x nn) := by
  simp [decodeWord]

/-- Leading nibble 8 dispatches on N (R68, R72). -/
theorem decodeWord_family8 (x y n : Nibble) :
    decodeWord (0x8#4 ++ x ++ y ++ n) = decodeFamily8 (0x8#4 ++ x ++ y ++ n) := by
  simp [decodeWord]

section
variable (x y : Nibble)

theorem decodeWord_ldReg : decodeWord (0x8#4 ++ x ++ y ++ 0x0#4) = .ok (.ldReg x y) := by
  simp [decodeWord_family8, decodeFamily8]

theorem decodeWord_orReg : decodeWord (0x8#4 ++ x ++ y ++ 0x1#4) = .ok (.orReg x y) := by
  simp [decodeWord_family8, decodeFamily8]

theorem decodeWord_andReg : decodeWord (0x8#4 ++ x ++ y ++ 0x2#4) = .ok (.andReg x y) := by
  simp [decodeWord_family8, decodeFamily8]

theorem decodeWord_xorReg : decodeWord (0x8#4 ++ x ++ y ++ 0x3#4) = .ok (.xorReg x y) := by
  simp [decodeWord_family8, decodeFamily8]

theorem decodeWord_addReg : decodeWord (0x8#4 ++ x ++ y ++ 0x4#4) = .ok (.addReg x y) := by
  simp [decodeWord_family8, decodeFamily8]

theorem decodeWord_subReg : decodeWord (0x8#4 ++ x ++ y ++ 0x5#4) = .ok (.subReg x y) := by
  simp [decodeWord_family8, decodeFamily8]

theorem decodeWord_shrReg : decodeWord (0x8#4 ++ x ++ y ++ 0x6#4) = .ok (.shrReg x y) := by
  simp [decodeWord_family8, decodeFamily8]

theorem decodeWord_subnReg : decodeWord (0x8#4 ++ x ++ y ++ 0x7#4) = .ok (.subnReg x y) := by
  simp [decodeWord_family8, decodeFamily8]

theorem decodeWord_shlReg : decodeWord (0x8#4 ++ x ++ y ++ 0xE#4) = .ok (.shlReg x y) := by
  simp [decodeWord_family8, decodeFamily8]

end

/-! ## Flags and differences as numbers (R16) -/

theorem flagByte_decide (p : Prop) [Decidable p] :
    flagByte (decide p) = if p then 1#8 else 0#8 := by
  simp [flagByte]

theorem flagByte_toNat (b : Bool) : (flagByte b).toNat = b.toNat := by
  cases b <;> rfl

/-- A byte difference is the exact integer difference modulo 256. -/
theorem toNat_sub_eq_emod (a b : Byte) :
    ((a - b).toNat : Int) = (a.toNat - b.toNat : Int) % 256 := by
  have := b.isLt
  rw [BitVec.toNat_sub]
  omega

end Sys2Proof

namespace Sys2Proof.Machine

/-! ## The two ways an instruction of the family completes -/

/-- Only the register file is replaced, so the frame is a matter of the registers alone. -/
theorem completedInRegs_of_regsSameBut {xs : List Nibble} {s : State} {v : Vector Byte 16}
    (h : RegsSameBut xs s (({ s with v := v } : State).report .executed)) :
    CompletedInRegs xs s (({ s with v := v } : State).report .executed) :=
  ⟨⟨h, rfl, fun _ _ => rfl, fun _ => rfl, ⟨rfl, rfl⟩, ⟨rfl, rfl⟩, ⟨rfl, rfl, rfl⟩,
    rfl, rfl, rfl, rfl, rfl⟩, rfl, rfl⟩

/-- One register is written, and no flag. -/
theorem retire_writeReg (s : State) (x : Nibble) (b : Byte) :
    ∃ t, retire (s.writeReg x b) = .next t ∧ t.readReg x = b ∧ CompletedInRegs [x] s t := by
  refine ⟨_, rfl, by simp, completedInRegs_of_regsSameBut fun r hr => ?_⟩
  have hne : x ≠ r := fun h => hr (by simp [h])
  exact (readReg_writeReg s x r b).trans (if_neg hne)

/-- The result is written, then the flag, so that VF holds the flag even when X = F (R101). -/
theorem retire_writeResultFlag (s : State) (x : Nibble) (b : Byte) (f : Bool) :
    ∃ t, retire (s.writeResultFlag x b f) = .next t ∧ (x ≠ 0xF#4 → t.readReg x = b) ∧
      t.readReg 0xF#4 = flagByte f ∧ CompletedInRegs [x, 0xF#4] s t := by
  refine ⟨_, rfl, fun hx => by simp [hx.symm], by simp,
    completedInRegs_of_regsSameBut fun r hr => ?_⟩
  have hx : x ≠ r := fun h => hr (by simp [h])
  have hF : 0xF#4 ≠ r := fun h => hr (by simp [h])
  exact (readReg_writeResultFlag s x r b f).trans ((if_neg hF).trans (if_neg hx))

/-! ## Immediates, the random byte, copies and logic (R102 to R107, R113) -/

/-- Settles O20: both write one register, with NN and with the byte sum. -/
theorem loadAndAddImmediate : Obligations.LoadAndAddImmediate := by
  intro x nn s
  refine ⟨decodeWord_ldImm x nn, decodeWord_addImm x nn, retire_writeReg s x nn, ?_⟩
  obtain ⟨t, ht, hval, hframe⟩ := retire_writeReg s x (s.readReg x + nn)
  exact ⟨t, ht, by rw [hval, BitVec.toNat_add], hframe⟩

/-- An instruction that writes `b` to VX writes every bit of `b` as the rule `bit` gives it. -/
theorem retire_writeReg_bits (s : State) (x : Nibble) (b : Byte) {bit : Nat → Bool}
    (hbit : ∀ k, b.getLsbD k = bit k) :
    ∃ t, retire (s.writeReg x b) = .next t ∧ CompletedInRegs [x] s t ∧
      ∀ k < 8, (t.readReg x).getLsbD k = bit k := by
  obtain ⟨t, ht, hval, hframe⟩ := retire_writeReg s x b
  exact ⟨t, ht, hframe, fun k _ => by rw [hval, hbit]⟩

/-- Settles O21: each writes one register, and the bits of OR, AND and XOR are those of the operands
combined. -/
theorem copyAndLogicOperations : Obligations.CopyAndLogicOperations := by
  intro x y s
  exact ⟨decodeWord_ldReg x y, decodeWord_orReg x y, decodeWord_andReg x y, decodeWord_xorReg x y,
    retire_writeReg s x (s.readReg y),
    retire_writeReg_bits s x _ fun _ => BitVec.getLsbD_or,
    retire_writeReg_bits s x _ fun _ => BitVec.getLsbD_and,
    retire_writeReg_bits s x _ fun _ => BitVec.getLsbD_xor⟩

/-- Settles O25: the byte written is the Cycle's random byte AND NN. -/
theorem randomByteIsMasked : Obligations.RandomByteIsMasked := by
  intro x nn s
  exact ⟨decodeWord_rnd x nn, retire_writeReg_bits s x _ fun _ => BitVec.getLsbD_and⟩

/-! ## Sums and differences (R108, R109, R112) -/

/-- Settles O22: the result is the byte sum and the flag its carry. -/
theorem addRegistersSetsCarry : Obligations.AddRegistersSetsCarry := by
  intro x y s
  obtain ⟨t, ht, hval, hflag, hframe⟩ := retire_writeResultFlag s x (s.readReg x + s.readReg y)
    (carryOut (s.readReg x) (s.readReg y))
  refine ⟨decodeWord_addReg x y, t, ht, fun hx => ?_, ?_, hframe⟩
  · rw [hval hx, BitVec.toNat_add]
  · rw [hflag, carryOut, flagByte_decide]

/-- A subtraction completes with the exact difference modulo 256 and the flag NOT borrow. -/
theorem retire_sub (s : State) (x : Nibble) (a b : Byte) :
    ∃ t, retire (s.writeResultFlag x (a - b) (noBorrow a b)) = .next t ∧
      (x ≠ 0xF#4 → ((t.readReg x).toNat : Int) = (a.toNat - b.toNat : Int) % 256) ∧
      t.readReg 0xF#4 = (if a.toNat ≥ b.toNat then 1#8 else 0#8) ∧
      CompletedInRegs [x, 0xF#4] s t := by
  obtain ⟨t, ht, hval, hflag, hframe⟩ := retire_writeResultFlag s x (a - b) (noBorrow a b)
  refine ⟨t, ht, fun hx => ?_, ?_, hframe⟩
  · rw [hval hx, toNat_sub_eq_emod]
  · rw [hflag, noBorrow, flagByte_decide]

/-- Settles O23: 8XY5 is VX - VY and 8XY7 is VY - VX. -/
theorem subtractRegistersSetsNoBorrow : Obligations.SubtractRegistersSetsNoBorrow := by
  intro x y s
  exact ⟨decodeWord_subReg x y, decodeWord_subnReg x y,
    retire_sub s x (s.readReg x) (s.readReg y), retire_sub s x (s.readReg y) (s.readReg x)⟩

/-! ## Shifts (R110, R111) -/

/-- SHIFT_SOURCE names the operand (R12). -/
theorem shiftOperand_eq (s : State) (x y : Nibble) :
    s.shiftOperand x y = if s.cfg.shiftSource = .vy then s.readReg y else s.readReg x := by
  unfold State.shiftOperand
  cases s.cfg.shiftSource <;> rfl

theorem shiftedOutRight_toNat (b : Byte) : (shiftedOutRight b).toNat = b.toNat % 2 := by
  rw [shiftedOutRight, ← BitVec.testBit_toNat, Nat.toNat_testBit]
  simp

theorem shiftedOutLeft_toNat (b : Byte) : (shiftedOutLeft b).toNat = b.toNat / 128 := by
  have := b.isLt
  rw [shiftedOutLeft, ← BitVec.testBit_toNat, Nat.toNat_testBit]
  omega

theorem toNat_ushiftRight_one (b : Byte) : (b >>> 1).toNat = b.toNat / 2 := by
  rw [BitVec.toNat_ushiftRight, Nat.shiftRight_one]

theorem toNat_shiftLeft_one (b : Byte) : (b <<< 1).toNat = b.toNat * 2 % 256 := by
  rw [BitVec.toNat_shiftLeft, Nat.shiftLeft_eq]

/-- Settles O24: both shift the operand SHIFT_SOURCE names, by one place, and VF is the bit that leaves
the byte, its lowest or its highest. -/
theorem shiftsTakeTheConfiguredSource : Obligations.ShiftsTakeTheConfiguredSource := by
  intro x y s src hsrc
  rw [← shiftOperand_eq] at hsrc
  subst hsrc
  obtain ⟨t, ht, hval, hflag, hframe⟩ := retire_writeResultFlag s x (s.shiftOperand x y >>> 1)
    (shiftedOutRight (s.shiftOperand x y))
  obtain ⟨u, hu, uval, uflag, uframe⟩ := retire_writeResultFlag s x (s.shiftOperand x y <<< 1)
    (shiftedOutLeft (s.shiftOperand x y))
  refine ⟨decodeWord_shrReg x y, decodeWord_shlReg x y,
    ⟨t, ht, fun hx => ?_, ?_, hframe⟩, ⟨u, hu, fun hx => ?_, ?_, uframe⟩⟩
  · rw [hval hx, toNat_ushiftRight_one]
  · rw [hflag, flagByte_toNat, shiftedOutRight_toNat]
  · rw [uval hx, toNat_shiftLeft_one]
  · rw [uflag, flagByte_toNat, shiftedOutLeft_toNat]

end Sys2Proof.Machine
end

