-- ==== Sys2Proof/Proofs/IndexMemory.lean ====
section
/-! PROOF. The index register and the transfers between memory and registers (R115 to R122): the words
decode to their instructions, three instructions only write I (and the flag), and the others answer what
the resolved addresses I, I + 1, … answer: a store, a load, or fault entry on the first out of range. -/

namespace Sys2Proof

/-! ## The words of the family (R69) -/

theorem decodeWord_ldI (nnn : Addr12) : decodeWord (0xA#4 ++ nnn) = .ok (.ldI nnn) := by
  simp [decodeWord]

/-- Leading nibble F dispatches on NN (R68, R73). -/
theorem decodeWord_familyF (x : Nibble) (nn : Byte) :
    decodeWord (0xF#4 ++ x ++ nn) = decodeFamilyF (0xF#4 ++ x ++ nn) := by
  simp [decodeWord]

section
variable (x : Nibble)

theorem decodeWord_addI : decodeWord (0xF#4 ++ x ++ 0x1E#8) = .ok (.addI x) := by
  simp [decodeWord_familyF, decodeFamilyF]

theorem decodeWord_ldFont : decodeWord (0xF#4 ++ x ++ 0x29#8) = .ok (.ldFont x) := by
  simp [decodeWord_familyF, decodeFamilyF]

theorem decodeWord_ldBcd : decodeWord (0xF#4 ++ x ++ 0x33#8) = .ok (.ldBcd x) := by
  simp [decodeWord_familyF, decodeFamilyF]

theorem decodeWord_storeRegs : decodeWord (0xF#4 ++ x ++ 0x55#8) = .ok (.storeRegs x) := by
  simp [decodeWord_familyF, decodeFamilyF]

theorem decodeWord_loadRegs : decodeWord (0xF#4 ++ x ++ 0x65#8) = .ok (.loadRegs x) := by
  simp [decodeWord_familyF, decodeFamilyF]

end

theorem FontAddrMult.toNat_eq_ite (m : FontAddrMult) : m.toNat = if m = .five then 5 else 1 := by
  cases m <;> rfl

end Sys2Proof

namespace Sys2Proof.Machine

/-! ## What the instructions of the family leave unchanged -/

/-- The stack, the timers, the engine and the ports do not depend on the registers, I or memory. -/
theorem restSame_update (s : State) (v : Vector Byte 16) (a : Word) (m : Memory) :
    RestSame s (({ s with v := v, i := a, mem := m } : State).report .executed) :=
  ⟨⟨rfl, rfl⟩, ⟨rfl, rfl⟩, ⟨rfl, rfl, rfl⟩, rfl, rfl, rfl, rfl, rfl⟩

/-- An instruction that writes I completed: only I and the registers in `xs` may differ. -/
def CompletedInIndex (xs : List Nibble) (s t : State) : Prop :=
  RegsSameBut xs s t ∧ FbSame s t ∧ MemSame s t ∧ RestSame s t ∧ t.pc = s.pc ∧
    t.outcome = some .executed

theorem completedInIndex_setI (s : State) (a : Word) :
    CompletedInIndex [] s ((s.setI a).report .executed) :=
  ⟨fun _ _ => rfl, fun _ _ => rfl, fun _ => rfl, restSame_update s s.v a s.mem, rfl, rfl⟩

theorem completedInIndex_setI_writeFlag (s : State) (a : Word) (f : Bool) :
    CompletedInIndex [0xF#4] s (((s.setI a).writeFlag f).report .executed) := by
  refine ⟨fun r hr => ?_, fun _ _ => rfl, fun _ => rfl, restSame_update s _ a s.mem, rfl, rfl⟩
  have hF : 0xF#4 ≠ r := fun h => hr (by simp [h])
  exact (readReg_writeFlag (s.setI a) f r).trans (if_neg hF)

theorem completedInMemory_writeMem (s : State) (cells : List Host.Cell) :
    CompletedInMemory s ((s.writeMem cells).report .executed) :=
  ⟨fun _ _ => rfl, rfl, fun _ _ => rfl, restSame_update s s.v s.i _, rfl, rfl⟩

/-! ## Writing I (R115, R116, R118) -/

theorem fontAddr_toNat (c : Config) (b : Byte) :
    (fontAddr c b).toNat
      = (c.fontBase + b.toNat * (if c.fontAddrMult = .five then 5 else 1)) % 65536 := by
  rw [fontAddr, BitVec.toNat_ofNat, FontAddrMult.toNat_eq_ite]

/-- Settles O32: both only write I, with NNN and with the font address of VX. -/
theorem indexTakesAddressOrGlyph : Obligations.IndexTakesAddressOrGlyph :=
  ⟨fun nnn s => ⟨decodeWord_ldI nnn, _, rfl, target_toNat nnn, completedInIndex_setI s _⟩,
    fun x s => ⟨decodeWord_ldFont x, _, rfl, fontAddr_toNat s.cfg (s.readReg x),
      completedInIndex_setI s _⟩⟩

/-- The 16-bit sum of I and a byte is the exact sum modulo 2^16. -/
theorem add_setWidth_toNat (i : Word) (b : Byte) :
    (i + b.setWidth 16).toNat = (i.toNat + b.toNat) % 65536 := by
  have := b.isLt
  simp only [BitVec.toNat_add, BitVec.toNat_setWidth]
  omega

/-- Settles O33: I takes the sum, then VF the flag of the exact sum of the old I and the old VX. -/
theorem addToIndexSetsOverflowFlag : Obligations.AddToIndexSetsOverflowFlag := by
  intro x s
  have hflag : ((s.setI (s.i + (s.readReg x).setWidth 16)).writeFlag
        (indexOverflow s.i (s.readReg x))).readReg 0xF#4
      = if s.i.toNat + (s.readReg x).toNat > 0x0FFF then 1#8 else 0#8 := by
    rw [readReg_writeFlag, if_pos rfl, indexOverflow, flagByte_decide]
  exact ⟨decodeWord_addI x, _, rfl, add_setWidth_toNat s.i (s.readReg x), hflag,
    completedInIndex_setI_writeFlag s _ _⟩

/-! ## What the transfers answer once the addresses are resolved (R50, R120 to R122) -/

section
variable {x : Nibble} {s : State} {l : List Nat} {r : Raise}

theorem exec_ldBcd_of_ok (h : s.indexAddrs 3 = .ok l) :
    exec (.ldBcd x) s
      = .next ((s.writeMem (l.zip (decimalDigits (s.readReg x)))).report .executed) := by
  simp only [exec, execLdBcd, h, answer, retire_eq]

theorem exec_ldBcd_of_error (h : s.indexAddrs 3 = .error r) :
    exec (.ldBcd x) s = .next (instrFault (.ldBcd x) r s) := by
  simp only [exec, execLdBcd, h, answer]

theorem exec_storeRegs_of_ok (h : s.indexAddrs (x.toNat + 1) = .ok l) :
    exec (.storeRegs x) s = .next ((s.writeMem (l.zip (s.regsUpTo x))).report .executed) := by
  simp only [exec, execStoreRegs, h, answer, retire_eq]

theorem exec_storeRegs_of_error (h : s.indexAddrs (x.toNat + 1) = .error r) :
    exec (.storeRegs x) s = .next (instrFault (.storeRegs x) r s) := by
  simp only [exec, execStoreRegs, h, answer]

theorem exec_loadRegs_of_ok (h : s.indexAddrs (x.toNat + 1) = .ok l) :
    exec (.loadRegs x) s = .next ((s.writeRegsFrom 0 (l.map s.readMem)).report .executed) := by
  simp only [exec, execLoadRegs, h, answer, retire_eq]

theorem exec_loadRegs_of_error (h : s.indexAddrs (x.toNat + 1) = .error r) :
    exec (.loadRegs x) s = .next (instrFault (.loadRegs x) r s) := by
  simp only [exec, execLoadRegs, h, answer]

end

/-- An instruction that hands the fault of its range on takes it on the first address out of range. -/
theorem faults_of_firstOutOfRange {i : Instr} {s : State} {n k : Nat}
    (he : ∀ {r}, s.indexAddrs n = .error r → exec i s = .next (instrFault i r s))
    (hk : FirstOutOfRange s n k) :
    ∃ t, exec i s = .next t ∧ Faulted ⟨.addressOutOfRange, s.pc - 2#16, encode i, true,
      BitVec.ofNat 17 (s.i.toNat + k)⟩ s t :=
  ⟨_, he (indexAddrs_of_firstOutOfRange hk), faulted_instrFault i _ s⟩

/-! ## Stores (R120, R121) -/

/-- An instruction that writes the bytes `bs` to its resolved range stores `val k` at I + k. -/
theorem stores_of_reaches {i : Instr} {s : State} {n : Nat} {bs : List Byte} {val : Nat → Byte}
    (he : ∀ {l}, s.indexAddrs n = .ok l →
      exec i s = .next ((s.writeMem (l.zip bs)).report .executed))
    (hlen : bs.length = n) (hval : ∀ k (h : k < bs.length), bs[k] = val k)
    (hm : MemoryCanonical s) (hr : Reaches s n) :
    ∃ t, exec i s = .next t ∧ CompletedInMemory s t ∧ StoresAtIndex s t n val := by
  obtain ⟨l, hl, -⟩ := indexAddrs_of_reaches hr
  exact ⟨_, he hl, completedInMemory_writeMem s _, storesAtIndex_writeMem hm hl hlen hval⟩

theorem decimalDigits_getElem (b : Byte) : ∀ k (h : k < (decimalDigits b).length),
    (decimalDigits b)[k] = BitVec.ofNat 8 (if k = 0 then b.toNat / 100
      else if k = 1 then b.toNat / 10 % 10 else b.toNat % 10)
  | 0, _ => rfl
  | 1, _ => rfl
  | 2, _ => rfl

/-- Settles O35: the three bytes stored are the digits of VX, hundreds first. -/
theorem decimalStoreWritesDigits : Obligations.DecimalStoreWritesDigits := fun x s =>
  ⟨decodeWord_ldBcd x,
    stores_of_reaches exec_ldBcd_of_ok rfl (decimalDigits_getElem (s.readReg x)),
    fun _ => faults_of_firstOutOfRange exec_ldBcd_of_error⟩

/-- Settles O37: the bytes stored are V0 to VX in order. -/
theorem storeRegistersWritesRange : Obligations.StoreRegistersWritesRange := fun x s =>
  ⟨decodeWord_storeRegs x,
    stores_of_reaches exec_storeRegs_of_ok (regsUpTo_length s x) fun _ => regsUpTo_getElem s x,
    fun _ => faults_of_firstOutOfRange exec_storeRegs_of_error⟩

/-! ## Loads (R122) -/

theorem spriteRows_getElem? (s : State) (n k : Nat) :
    (s.spriteRows n)[k]? = if k < n then some (s.byteAtIndex k) else none := by
  split
  case isTrue h => simp [State.spriteRows, h]
  case isFalse h => simpa [State.spriteRows] using h

/-- V0 to VX take the bytes at I, I + 1, … and the registers above keep theirs. -/
theorem readReg_writeRegsFrom_spriteRows (s : State) (x k : Nibble) :
    (s.writeRegsFrom 0 (s.spriteRows (x.toNat + 1))).readReg k
      = if k.toNat ≤ x.toNat then s.byteAtIndex k.toNat else s.readReg k := by
  have hlen : 0 + (s.spriteRows (x.toNat + 1)).length ≤ 16 := by
    have := x.isLt
    simp only [State.spriteRows, List.length_map, List.length_range]
    omega
  rw [readReg_writeRegsFrom hlen (Nat.zero_le _), Nat.sub_zero, spriteRows_getElem?]
  simp only [Nat.lt_succ_iff]
  split <;> rfl

/-- A load completed: everything but the general registers is as before. -/
def CompletedInLoad (s t : State) : Prop :=
  t.i = s.i ∧ FbSame s t ∧ MemSame s t ∧ RestSame s t ∧ t.pc = s.pc ∧ t.outcome = some .executed

theorem completedInLoad_writeRegsFrom (s : State) (bs : List Byte) :
    CompletedInLoad s ((s.writeRegsFrom 0 bs).report .executed) := by
  rw [writeRegsFrom_rest]
  exact ⟨rfl, fun _ _ => rfl, fun _ => rfl, restSame_update s _ s.i s.mem, rfl, rfl⟩

/-- Settles O38: the bytes loaded are those the range I, I + 1, … resolves to. -/
theorem loadRegistersReadsRange : Obligations.LoadRegistersReadsRange := by
  intro x s
  refine ⟨decodeWord_loadRegs x, fun hr => ?_,
    fun _ => faults_of_firstOutOfRange exec_loadRegs_of_error⟩
  obtain ⟨l, hl, -⟩ := indexAddrs_of_reaches hr
  have hexec := exec_loadRegs_of_ok hl
  rw [map_readMem_eq_spriteRows hl] at hexec
  exact ⟨_, hexec, readReg_writeRegsFrom_spriteRows s x, completedInLoad_writeRegsFrom s _⟩

end Sys2Proof.Machine
end

