-- ==== Sys2Proof/Proofs/Display.lean ====
section
/-! PROOF. The display (R123 to R128): 00E0 and DXYN write only the buffer and, for DXYN, the flag. What
DXYN draws is read cell by cell from the laws of `drawRows`. -/

namespace Sys2Proof

theorem decodeWord_drw (x y n : Nibble) :
    decodeWord (0xD#4 ++ x ++ y ++ n) = .ok (.drw x y n) := by
  simp [decodeWord]

theorem flagByte_eq_one_iff (b : Bool) : flagByte b = 1#8 ↔ b = true := by
  cases b <;> decide

theorem flagByte_eq_zero_or_one (b : Bool) : flagByte b = 0#8 ∨ flagByte b = 1#8 := by
  cases b <;> decide

end Sys2Proof

namespace Sys2Proof.Machine

/-! ## What the instructions of the family leave unchanged -/

/-- A display instruction completed: only the cells and the registers in `xs` may differ. -/
def CompletedInDisplay (xs : List Nibble) (s t : State) : Prop :=
  RegsSameBut xs s t ∧ t.i = s.i ∧ MemSame s t ∧ RestSame s t ∧ t.pc = s.pc ∧
    t.outcome = some .executed

/-- Where the cells are as before too, it is a completion in the registers. -/
theorem CompletedInDisplay.completedInRegs {xs : List Nibble} {s t : State}
    (h : CompletedInDisplay xs s t) (hfb : FbSame s t) : CompletedInRegs xs s t := by
  obtain ⟨hregs, hi, hmem, hrest, hpc, hout⟩ := h
  exact ⟨⟨hregs, hi, hfb, hmem, hrest⟩, hpc, hout⟩

theorem completedInDisplay_setFb (s : State) (d : Vector (BitVec 64) 32) :
    CompletedInDisplay [] s ((s.setFb d).report .executed) := by
  simp [CompletedInDisplay, RegsSameBut, MemSame, RestSame, StackSame, TimersSame, EngineSame,
    PortsSame]

theorem completedInDisplay_setFb_writeFlag (s : State) (d : Vector (BitVec 64) 32) (f : Bool) :
    CompletedInDisplay [0xF#4] s (((s.setFb d).writeFlag f).report .executed) := by
  obtain ⟨-, hi, hmem, hrest, hpc, hout⟩ := completedInDisplay_setFb s d
  refine ⟨fun r hr => ?_, hi, hmem, hrest, hpc, hout⟩
  have hF : 0xF#4 ≠ r := fun h => hr (by simp [h])
  exact (readReg_writeFlag (s.setFb d) f r).trans (if_neg hF)

/-! ## Clearing (R123) -/

/-- Settles O43: the display written is blank, and it is all that is written. -/
theorem clearDisplayClearsEveryCell : Obligations.ClearDisplayClearsEveryCell :=
  ⟨by decide, fun s => ⟨_, rfl, pixelAt_blank, completedInDisplay_setFb s _⟩⟩

/-! ## What DXYN answers once the row addresses are resolved (R50, R125) -/

/-- The buffer and the collision flag after the sprite at I is drawn on the display of `s`. -/
def State.spriteDrawn (s : State) (x y n : Nibble) : Canvas :=
  drawRows (startColumn (s.readReg x)) (startRow (s.readReg y)) (s.spriteRows n.toNat) (s.fb, false)

section
variable {x y n : Nibble} {s : State}

theorem exec_drw_of_reaches (h : Reaches s n.toNat) :
    exec (.drw x y n) s = .next (((s.setFb (s.spriteDrawn x y n).1).writeFlag
      (s.spriteDrawn x y n).2).report .executed) := by
  obtain ⟨l, hl, -⟩ := indexAddrs_of_reaches h
  simp only [exec, execDrw, hl, answer, retire_eq, map_readMem_eq_spriteRows hl, State.spriteDrawn]

theorem exec_drw_of_error {r : Raise} (h : s.indexAddrs n.toNat = .error r) :
    exec (.drw x y n) s = .next (instrFault (.drw x y n) r s) := by
  simp only [exec, execDrw, h, answer]

end

/-! ## The drawing (R125 to R127) -/

theorem pixelAt_spriteDrawn (s : State) (x y n : Nibble) (c r : Nat) :
    pixelAt (s.spriteDrawn x y n).1 c r = (s.pixel c r ^^ spriteCovers ((s.readReg x).toNat % 64)
      ((s.readReg y).toNat % 32) (s.spriteRows n.toNat) c r) :=
  pixelAt_drawRows _ c r _ _ _

/-- The flag starts clear, so the collisions are those of this drawing alone (R127). -/
theorem spriteDrawn_collision (s : State) (x y n : Nibble) :
    (s.spriteDrawn x y n).2 = true ↔ ∃ c r, s.pixel c r = true ∧
      spriteCovers ((s.readReg x).toNat % 64) ((s.readReg y).toNat % 32)
        (s.spriteRows n.toNat) c r = true := by
  rw [State.spriteDrawn, drawRows_collision]
  simp only [Bool.false_eq_true, false_or, and_comm]
  rfl

/-- Settles O44: where the rows resolve, the cells and the flag are those of `spriteDrawn`; where they do
not, the fault is that of the range. -/
theorem drawXorsVisibleCells : Obligations.DrawXorsVisibleCells := by
  intro x y n s
  refine ⟨decodeWord_drw x y n, fun hr => ?_, fun _ => faults_of_firstOutOfRange exec_drw_of_error⟩
  have hVF : (((s.setFb (s.spriteDrawn x y n).1).writeFlag (s.spriteDrawn x y n).2).report
      .executed).readReg 0xF#4 = flagByte (s.spriteDrawn x y n).2 := by simp
  refine ⟨_, exec_drw_of_reaches hr, pixelAt_spriteDrawn s x y n, ?_, ?_,
    completedInDisplay_setFb_writeFlag s _ _⟩
  · rw [hVF, flagByte_eq_one_iff, spriteDrawn_collision]
  · rw [hVF]
    exact flagByte_eq_zero_or_one _

/-- Settles O46: no row address is needed, so the drawing always completes; with no row drawn the canvas
is the one it started from, the old cells and a clear flag. -/
theorem drawOfNoRows : Obligations.DrawOfNoRows := by
  intro x y s
  have hreaches : Reaches s (0#4 : Nibble).toNat := fun k hk => absurd hk (Nat.not_lt_zero k)
  have hdrawn : s.spriteDrawn x y 0#4 = (s.fb, false) := rfl
  have hexec := exec_drw_of_reaches (x := x) (y := y) hreaches
  rw [hdrawn] at hexec
  have hfb : FbSame s (((s.setFb s.fb).writeFlag false).report .executed) := fun _ _ => rfl
  exact ⟨_, hexec, hfb, by simp [flagByte],
    (completedInDisplay_setFb_writeFlag s s.fb false).completedInRegs hfb⟩

end Sys2Proof.Machine
end

