-- ==== Sys2Proof/Proofs/InputTimers.lean ====
section
/-! PROOF. Key wait and timer access (R132 to R136): FX0A latches the lowest pressed key or enters the wait,
FX07 is a register write, FX15 and FX18 write one timer each and nothing else. -/

namespace Sys2Proof

/-! ## The words of the family (R69) -/

section
variable (x : Nibble)

theorem decodeWord_ldVxDt : decodeWord (0xF#4 ++ x ++ 0x07#8) = .ok (.ldVxDt x) := by
  simp [decodeWord_familyF, decodeFamilyF]

theorem decodeWord_ldVxKey : decodeWord (0xF#4 ++ x ++ 0x0A#8) = .ok (.ldVxKey x) := by
  simp [decodeWord_familyF, decodeFamilyF]

theorem decodeWord_ldDtVx : decodeWord (0xF#4 ++ x ++ 0x15#8) = .ok (.ldDtVx x) := by
  simp [decodeWord_familyF, decodeFamilyF]

theorem decodeWord_ldStVx : decodeWord (0xF#4 ++ x ++ 0x18#8) = .ok (.ldStVx x) := by
  simp [decodeWord_familyF, decodeFamilyF]

end

end Sys2Proof

namespace Sys2Proof.Machine

/-! ## Waiting for a key (R132) -/

/-- A pressed key with no pressed key below it is the one found: there is only one such key. -/
theorem lowestKey_eq_some {keys : BitVec 16} {k : Nibble} (hk : keys.getLsbD k.toNat = true)
    (hlow : ∀ j < k.toNat, keys.getLsbD j = false) : lowestKey keys = some k := by
  cases h : lowestKey keys with
  | none => simp [lowestKey_none.mp h] at hk
  | some j =>
    obtain ⟨hj, hjlow⟩ := lowestKey_some h
    have hjk : ¬ j.toNat < k.toNat := fun hlt => Bool.false_ne_true ((hlow _ hlt).symm.trans hj)
    have hkj : ¬ k.toNat < j.toNat := fun hlt => Bool.false_ne_true ((hjlow _ hlt).symm.trans hk)
    rw [BitVec.eq_of_toNat_eq (by omega : j.toNat = k.toNat)]

section
variable {x k : Nibble} {s : State}

theorem exec_ldVxKey_of_some (h : lowestKey s.keys = some k) :
    exec (.ldVxKey x) s = .next (s.latchKey x k) := by
  simp only [exec, execLdVxKey, h]

theorem exec_ldVxKey_of_none (h : lowestKey s.keys = none) :
    exec (.ldVxKey x) s = .next ((s.setMode (.awaitingKey x)).report (.enteredWait x)) := by
  simp only [exec, execLdVxKey, h]

end

/-- Latching is a register write but for the outcome, of which neither part speaks. -/
theorem latchKey_writes_one_register (s : State) (x k : Nibble) :
    (s.latchKey x k).readReg x = k.setWidth 8 ∧ RegFrame [x] s (s.latchKey x k) := by
  obtain ⟨_, ⟨rfl⟩, hval, hframe, -, -⟩ := retire_writeReg s x (k.setWidth 8)
  exact ⟨hval, hframe⟩

/-- Settles O48: the instruction latches the key found, or, with none found, writes only the mode. -/
theorem keyWaitInstruction : Obligations.KeyWaitInstruction := by
  intro x s
  refine ⟨decodeWord_ldVxKey x, fun k hk hlow => ?_, fun hnone => ?_⟩
  · obtain ⟨hval, hframe⟩ := latchKey_writes_one_register s x k
    exact ⟨_, exec_ldVxKey_of_some (lowestKey_eq_some hk hlow), hval, hframe, rfl, rfl⟩
  · exact ⟨_, exec_ldVxKey_of_none (lowestKey_none.mpr hnone), rfl, fun _ _ => rfl, rfl, ⟨rfl, rfl⟩,
      ⟨rfl, rfl⟩, fun _ _ => rfl, fun _ => rfl, rfl, rfl, ⟨rfl, rfl, rfl, rfl, rfl⟩, rfl, rfl⟩

/-! ## Timer access (R134 to R136) -/

/-- A timer write completed: only DT and ST may differ. -/
def CompletedInTimers (s t : State) : Prop :=
  RegsSameBut [] s t ∧ t.i = s.i ∧ StackSame s t ∧ FbSame s t ∧ MemSame s t ∧ EngineSame s t ∧
    PortsSame s t ∧ t.pc = s.pc ∧ t.outcome = some .executed

theorem completedInTimers_update (s : State) (dt st : Byte) :
    CompletedInTimers s (({ s with dt := dt, st := st } : State).report .executed) :=
  ⟨fun _ _ => rfl, rfl, ⟨rfl, rfl⟩, fun _ _ => rfl, fun _ => rfl, ⟨rfl, rfl, rfl⟩,
    ⟨rfl, rfl, rfl, rfl, rfl⟩, rfl, rfl⟩

/-- The sound output follows ST (R30, R152). -/
theorem soundActive_iff (s : State) : s.soundActive = true ↔ 0 < s.st.toNat :=
  decide_eq_true_iff

/-- Settles O49: FX07 is a register write, and FX15 and FX18 complete in the timers. -/
theorem timerInstructions : Obligations.TimerInstructions := by
  intro x s
  exact ⟨decodeWord_ldVxDt x, decodeWord_ldDtVx x, decodeWord_ldStVx x, retire_writeReg s x s.dt,
    ⟨_, rfl, rfl, rfl, completedInTimers_update s (s.readReg x) s.st⟩,
    ⟨_, rfl, rfl, rfl, soundActive_iff _, completedInTimers_update s s.dt (s.readReg x)⟩⟩

end Sys2Proof.Machine
end

