-- ==== Sys2Proof/Proofs/Tick.lean ====
section
/-! PROOF. The timer tick (R148, R149), which does not consult the mode. -/

namespace Sys2Proof.Machine

/-- A step that takes a Tick counts both timers down, whatever the mode (R149). -/
theorem step_tick {s : State} {rest : List Transaction} (h : s.pending = .tick :: rest) :
    step s = .next { s with pending := rest, dt := countDown s.dt, st := countDown s.st } :=
  step_cons h

/-- Settles O12: the step counts both timers down, and counting down is subtraction that stops at 0. -/
theorem tickCountsDownInEveryMode : Obligations.TickCountsDownInEveryMode := by
  intro s rest h
  exact ⟨_, step_tick h, countDown_toNat s.dt, countDown_toNat s.st, rfl⟩

end Sys2Proof.Machine
end

