-- ==== Sys2Proof/Proofs/ResetLoad.lean ====
section
/-! PROOF. The Reset transaction (R157) and the Load of an image longer than the program space (R162). Both
start from what a step with that transaction first answers; the bytes a Load writes are read through the
laws of `imageCells`. -/

namespace Sys2Proof.Machine

/-! ## Reset (R157) -/

theorem step_reset {s : State} {rest : List Transaction} (h : s.pending = .reset :: rest) :
    step s = .next (resetTransaction (s.setPending rest)) :=
  step_cons h

/-- After Reset memory reads as the reset contents of the configuration in force. -/
theorem readMem_resetTransaction (s : State) (a : Nat) :
    (resetTransaction s).readMem a = resetByte s.cfg a :=
  readMem_of_mem_nil rfl a

/-- Settles O14: outside the configuration and the host's side the state is the reset state, and memory
is the font of `s.cfg` at its FONT_BASE and 0 elsewhere. -/
theorem resetTransactionSetsResetValues : Obligations.ResetTransactionSetsResetValues := by
  intro s rest h
  have hmem := readMem_resetTransaction (s.setPending rest)
  exact ⟨_, step_reset h, reset_readReg, rfl, rfl, fun _ hk => reset_stack_getElem hk, rfl, rfl, rfl,
    reset_pixel, fun _ hj => (hmem _).trans (resetByte_font _ hj),
    fun a ha => (hmem a).trans (resetByte_elsewhere _ ha), rfl, rfl, rfl, rfl, rfl⟩

/-! ## The image in memory (R161) -/

section
variable {image : List Byte} {s : State}

/-- What memory reads as once an image that fits is placed: the image where it reaches, else as before. -/
theorem readMem_placeImage (hfit : image.length ≤ 3584) (hm : MemoryCanonical s) (a : Nat) :
    (placeImage image s).readMem a
      = (if 0x200 ≤ a then image[a - 0x200]? else none).getD (s.readMem a) := by
  have hcells : ∀ x ∈ imageCells loadAddr image, x.1 < 4096 := imageCells_lt (by simp; omega)
  exact (Memory.read_writeAll s.cfg hcells hm).trans (by rw [lastWrite_imageCells]; rfl)

theorem readMem_placeImage_inside (hfit : image.length ≤ 3584) (hm : MemoryCanonical s) {j : Nat}
    (h : j < image.length) : (placeImage image s).readMem (0x200 + j) = image[j] := by
  simp [readMem_placeImage hfit hm, h]

theorem readMem_placeImage_outside (hfit : image.length ≤ 3584) (hm : MemoryCanonical s) {a : Nat}
    (h : a < 0x200 ∨ 0x200 + image.length ≤ a) : (placeImage image s).readMem a = s.readMem a := by
  rw [readMem_placeImage hfit hm]
  split
  case isTrue ha => rw [List.getElem?_eq_none (by omega), Option.getD_none]
  case isFalse => rfl

/-- Placing an image writes memory, the mode and the outcome, nothing else. -/
theorem placeImage_frame (image : List Byte) (s : State) :
    placeImage image s
      = { s with
          mem := (placeImage image s).mem, mode := .running
          outcome := some (.loaded image.length) } := rfl

/-! ## An image that does not fit (R162) -/

theorem load_of_truncate (hmode : s.mode = .reset) (hlen : 3584 < image.length)
    (hcfg : s.cfg.loadOversize = .truncate) :
    load image s = placeImage (image.take 3584) { s with loadTruncated := true } := by
  simp [load, hmode, hcfg, hlen]

theorem load_of_reject (hmode : s.mode = .reset) (hlen : 3584 < image.length)
    (hcfg : s.cfg.loadOversize = .reject) : load image s = s.report .loadRejected := by
  simp [load, hmode, hcfg, hlen]

end

theorem step_load {s : State} {image : List Byte} {rest : List Transaction}
    (h : s.pending = .load image :: rest) : step s = .next (load image (s.setPending rest)) :=
  step_cons h

/-- Settles O16: under Truncate the step places the first 3584 bytes, an image that just fits, so its end
is the end of memory; under Reject it only reports. -/
theorem oversizeImageIsCutOrRejected : Obligations.OversizeImageIsCutOrRejected := by
  intro s image rest hpending hmode hlen
  rw [step_load hpending]
  refine ⟨fun hcfg hm => ?_, fun hcfg => ?_⟩
  · rw [load_of_truncate (s := s.setPending rest) hmode hlen hcfg]
    have hcut : (image.take 3584).length = 3584 := List.length_take_of_le hlen.le
    have hcanon : MemoryCanonical { s.setPending rest with loadTruncated := true } := hm
    refine ⟨_, rfl, fun j _ hj => ?_, fun a ha => ?_, ?_⟩
    · rw [readMem_placeImage_inside hcut.le hcanon (hcut.symm ▸ hj), List.getElem_take]
    · exact readMem_placeImage_outside hcut.le hcanon (by rwa [hcut])
    · rw [placeImage_frame, hcut]
      rfl
  · rw [load_of_reject (s := s.setPending rest) hmode hlen hcfg]
    rfl

end Sys2Proof.Machine
end

section
/-! PROOF. The encoder and the decoder are inverse to each other (R63, R69), and a word decodes exactly when
a row of the opcode map selects it, which is then the row of its instruction (R69, R82). -/

namespace Sys2Proof

/-! ## Decoding an encoded instruction (R69) -/

theorem decodeWord_skp (x : Nibble) : decodeWord (0xE#4 ++ x ++ 0x9E#8) = .ok (.skp x) := by
  simp [decodeWord, decodeFamilyE]

theorem decodeWord_sknp (x : Nibble) : decodeWord (0xE#4 ++ x ++ 0xA1#8) = .ok (.sknp x) := by
  simp [decodeWord, decodeFamilyE]

theorem decodeWord_encode : ∀ i : Instr, decodeWord (encode i) = .ok i
  | .cls => by decide
  | .ret => by decide
  | .jp nnn => decodeWord_jp nnn
  | .call nnn => decodeWord_call nnn
  | .seImm x nn => decodeWord_seImm x nn
  | .sneImm x nn => decodeWord_sneImm x nn
  | .seReg x y n => decodeWord_seReg x y n
  | .ldImm x nn => decodeWord_ldImm x nn
  | .addImm x nn => decodeWord_addImm x nn
  | .ldReg x y => decodeWord_ldReg x y
  | .orReg x y => decodeWord_orReg x y
  | .andReg x y => decodeWord_andReg x y
  | .xorReg x y => decodeWord_xorReg x y
  | .addReg x y => decodeWord_addReg x y
  | .subReg x y => decodeWord_subReg x y
  | .shrReg x y => decodeWord_shrReg x y
  | .subnReg x y => decodeWord_subnReg x y
  | .shlReg x y => decodeWord_shlReg x y
  | .sneReg x y n => decodeWord_sneReg x y n
  | .ldI nnn => decodeWord_ldI nnn
  | .jpV0 nnn => decodeWord_jpV0 nnn
  | .rnd x nn => decodeWord_rnd x nn
  | .drw x y n => decodeWord_drw x y n
  | .skp x => decodeWord_skp x
  | .sknp x => decodeWord_sknp x
  | .ldVxDt x => decodeWord_ldVxDt x
  | .ldVxKey x => decodeWord_ldVxKey x
  | .ldDtVx x => decodeWord_ldDtVx x
  | .ldStVx x => decodeWord_ldStVx x
  | .addI x => decodeWord_addI x
  | .ldFont x => decodeWord_ldFont x
  | .ldBcd x => decodeWord_ldBcd x
  | .storeRegs x => decodeWord_storeRegs x
  | .loadRegs x => decodeWord_loadRegs x

/-- Settles O2: the two bytes make the encoded word again, and that word decodes to its instruction. -/
theorem decodeOfEncodeIsIdentity : Obligations.DecodeOfEncodeIsIdentity := by
  intro i rest
  change decodeBytes (highByte (encode i) :: lowByte (encode i) :: rest) = .ok (i, rest)
  simp only [decodeBytes, wordOfBytes_bytes, decodeWord_encode]

/-- Settles O1: eight evaluations of the decoder. -/
theorem sampleWordsDecode : Obligations.SampleWordsDecode := by
  unfold Obligations.SampleWordsDecode
  decide

/-! ## Encoding a decoded word (R69) -/

section
variable {w : Word} {f : Nibble}

theorem append_fieldNNN (hf : (fieldF w).toNat = f.toNat) : f ++ fieldNNN w = w := by
  rw [← BitVec.eq_of_toNat_eq hf, word_eq_nnn]

theorem append_fieldX_fieldNN (hf : (fieldF w).toNat = f.toNat) :
    f ++ fieldX w ++ fieldNN w = w := by
  rw [← BitVec.eq_of_toNat_eq hf, word_eq_xnn]

theorem append_fieldX_fieldY_fieldN (hf : (fieldF w).toNat = f.toNat) :
    f ++ fieldX w ++ fieldY w ++ fieldN w = w := by
  rw [← BitVec.eq_of_toNat_eq hf, word_eq_xyn]

theorem append_nnn_eq (hf : (fieldF w).toNat = f.toNat) {nnn : Addr12}
    (hn : (fieldNNN w).toNat = nnn.toNat) : f ++ nnn = w := by
  rw [← BitVec.eq_of_toNat_eq hn, append_fieldNNN hf]

theorem append_fieldX_nn_eq (hf : (fieldF w).toNat = f.toNat) {nn : Byte}
    (hn : (fieldNN w).toNat = nn.toNat) : f ++ fieldX w ++ nn = w := by
  rw [← BitVec.eq_of_toNat_eq hn, append_fieldX_fieldNN hf]

theorem append_fieldX_fieldY_n_eq (hf : (fieldF w).toNat = f.toNat) {n : Nibble}
    (hn : (fieldN w).toNat = n.toNat) : f ++ fieldX w ++ fieldY w ++ n = w := by
  rw [← BitVec.eq_of_toNat_eq hn, append_fieldX_fieldY_fieldN hf]

end

section
variable {w : Word} {i : Instr}

theorem encode_of_decodeFamily0 (hf : (fieldF w).toNat = 0x0) (h : decodeFamily0 w = .ok i) :
    encode i = w := by
  unfold decodeFamily0 at h
  split at h <;> cases h
  case h_1 hn => exact append_nnn_eq (f := 0x0#4) (nnn := 0x0E0#12) hf hn
  case h_2 hn => exact append_nnn_eq (f := 0x0#4) (nnn := 0x0EE#12) hf hn

theorem encode_of_decodeFamily8 (hf : (fieldF w).toNat = 0x8) (h : decodeFamily8 w = .ok i) :
    encode i = w := by
  unfold decodeFamily8 at h
  split at h <;> cases h
  all_goals exact append_fieldX_fieldY_n_eq (f := 0x8#4) hf ‹_›

theorem encode_of_decodeFamilyE (hf : (fieldF w).toNat = 0xE) (h : decodeFamilyE w = .ok i) :
    encode i = w := by
  unfold decodeFamilyE at h
  split at h <;> cases h
  all_goals exact append_fieldX_nn_eq (f := 0xE#4) hf ‹_›

theorem encode_of_decodeFamilyF (hf : (fieldF w).toNat = 0xF) (h : decodeFamilyF w = .ok i) :
    encode i = w := by
  unfold decodeFamilyF at h
  split at h <;> cases h
  all_goals exact append_fieldX_nn_eq (f := 0xF#4) hf ‹_›

end

/-- Settles O3: in every family the operands are fields of the word, and what is not a field is the
constant the decoder compared. -/
theorem encodeOfDecodeIsTheWord : Obligations.EncodeOfDecodeIsTheWord := by
  intro w i h
  unfold decodeWord at h
  split at h
  case h_1 hf => exact encode_of_decodeFamily0 hf h
  case h_9 hf => exact encode_of_decodeFamily8 hf h
  case h_15 hf => exact encode_of_decodeFamilyE hf h
  case h_16 =>
    have hf : (fieldF w).toNat = 0xF := by
      have hlt := (fieldF w).isLt
      simp only [imp_false] at *
      omega
    exact encode_of_decodeFamilyF hf h
  case h_2 hf | h_3 hf | h_11 hf | h_12 hf => cases h; exact append_fieldNNN hf
  case h_4 hf | h_5 hf | h_7 hf | h_8 hf | h_13 hf => cases h; exact append_fieldX_fieldNN hf
  case h_6 hf | h_10 hf | h_14 hf => cases h; exact append_fieldX_fieldY_fieldN hf

/-! ## The row of a word (R69, R82) -/

open Laws.EncodedWordSelectsItsRow in
theorem row_selects_encode : ∀ i : Instr, i.row.selects (encode i) = true
  | .cls => cls
  | .ret => ret
  | .jp nnn => jp nnn
  | .call nnn => call nnn
  | .seImm x nn => seImm x nn
  | .sneImm x nn => sneImm x nn
  | .seReg x y n => seReg x y n
  | .ldImm x nn => ldImm x nn
  | .addImm x nn => addImm x nn
  | .ldReg x y => ldReg x y
  | .orReg x y => orReg x y
  | .andReg x y => andReg x y
  | .xorReg x y => xorReg x y
  | .addReg x y => addReg x y
  | .subReg x y => subReg x y
  | .shrReg x y => shrReg x y
  | .subnReg x y => subnReg x y
  | .shlReg x y => shlReg x y
  | .sneReg x y n => sneReg x y n
  | .ldI nnn => ldI nnn
  | .jpV0 nnn => jpV0 nnn
  | .rnd x nn => rnd x nn
  | .drw x y n => drw x y n
  | .skp x => skp x
  | .sknp x => sknp x
  | .ldVxDt x => ldVxDt x
  | .ldVxKey x => ldVxKey x
  | .ldDtVx x => ldDtVx x
  | .ldStVx x => ldStVx x
  | .addI x => addI x
  | .ldFont x => ldFont x
  | .ldBcd x => ldBcd x
  | .storeRegs x => storeRegs x
  | .loadRegs x => loadRegs x

theorem row_mem_opcodeMap (i : Instr) : i.row ∈ opcodeMap := by
  cases i <;> simp [Instr.row, opcodeMap]

/-- Two rows of the map that agree on the bits both of them test are one row. -/
theorem opcodeMap_eq_of_agree : ∀ r ∈ opcodeMap, ∀ r' ∈ opcodeMap,
    r.pattern &&& r'.mask = r'.pattern &&& r.mask → r = r' := by
  decide

/-- At most one row of the map selects a word (R69). -/
theorem selects_unique {r r' : OpcodeRow} {w : Word} (hr : r ∈ opcodeMap) (hr' : r' ∈ opcodeMap)
    (h : r.selects w = true) (h' : r'.selects w = true) : r = r' := by
  rw [OpcodeRow.selects, beq_iff_eq] at h h'
  exact opcodeMap_eq_of_agree r hr r' hr' (by rw [← h, ← h']; ac_rfl)

/-- The mask of a row tests the leading nibble, and the whole field its family switches on (R68). -/
theorem opcodeMap_mask_tests_switch : ∀ r ∈ opcodeMap, fieldF r.mask = 0xF#4 ∧
    (fieldF r.pattern = 0x0#4 → fieldNNN r.mask = 0xFFF#12) ∧
    (fieldF r.pattern = 0x8#4 → fieldN r.mask = 0xF#4) ∧
    (fieldF r.pattern = 0xE#4 ∨ fieldF r.pattern = 0xF#4 → fieldNN r.mask = 0xFF#8) := by
  decide

theorem opcodeMap_pattern_decodes : ∀ r ∈ opcodeMap,
    decodeWord r.pattern ≠ .error (.unmatched r.pattern) := by
  decide

/-- A field that the mask of a row tests in full is, in every word the row selects, that of the pattern. -/
theorem extractLsb'_of_selects {r : OpcodeRow} {w : Word} (h : r.selects w = true) {k n : Nat}
    (hmask : r.mask.extractLsb' k n = BitVec.allOnes n) :
    w.extractLsb' k n = r.pattern.extractLsb' k n := by
  rw [OpcodeRow.selects, beq_iff_eq] at h
  rw [← h, BitVec.extractLsb'_and, hmask, BitVec.and_allOnes]

/-- A row of the map selects no unmatched word: the pattern of the row would be unmatched too, since a
word's family and the field it switches on decide whether it is. -/
theorem selects_eq_false_of_unmatched {w : Word} (hw : decodeWord w = .error (.unmatched w))
    {r : OpcodeRow} (hr : r ∈ opcodeMap) : r.selects w = false := by
  by_contra hsel
  have hsel : r.selects w = true := by simpa using hsel
  obtain ⟨hmF, hmNNN, hmN, hmNN⟩ := opcodeMap_mask_tests_switch r hr
  have hF : fieldF w = fieldF r.pattern := extractLsb'_of_selects hsel hmF
  refine opcodeMap_pattern_decodes r hr ((unmatchedWordsByFamily r.pattern).mpr ?_)
  rw [unmatchedWordsByFamily, hF] at hw
  rcases hw with ⟨h0, hw⟩ | ⟨h8, hw⟩ | ⟨hE, hw⟩ | ⟨hF', hw⟩
  · have hNNN : fieldNNN w = fieldNNN r.pattern := extractLsb'_of_selects hsel (hmNNN h0)
    exact .inl ⟨h0, hNNN ▸ hw⟩
  · have hN : fieldN w = fieldN r.pattern := extractLsb'_of_selects hsel (hmN h8)
    exact .inr (.inl ⟨h8, hN ▸ hw⟩)
  · have hNN : fieldNN w = fieldNN r.pattern := extractLsb'_of_selects hsel (hmNN (.inl hE))
    exact .inr (.inr (.inl ⟨hE, hNN ▸ hw⟩))
  · have hNN : fieldNN w = fieldNN r.pattern := extractLsb'_of_selects hsel (hmNN (.inr hF'))
    exact .inr (.inr (.inr ⟨hF', hNN ▸ hw⟩))

/-- Settles O4: the word is the encoding of its instruction, so the instruction's row selects it, and no
two rows select one word; an unmatched word is selected by none. -/
theorem decodeSelectsTheUniqueRow : Obligations.DecodeSelectsTheUniqueRow := by
  refine fun w => ⟨fun i hi => ?_, fun e he => ?_⟩
  · have hsel : i.row.selects w = true := by
      have h := row_selects_encode i
      rwa [encodeOfDecodeIsTheWord w i hi] at h
    exact ⟨row_mem_opcodeMap i, hsel, fun r hr h => selects_unique hr (row_mem_opcodeMap i) h hsel⟩
  · obtain rfl := decodeWord_error he
    exact ⟨rfl, fun r hr => selects_eq_false_of_unmatched he hr⟩

end Sys2Proof
end

section
/-! PROOF. What one step answers, transaction by transaction: a Cycle in each mode (R78, R80, R86, R133,
R142, R145), the Load of an image that fits or comes too late (R161), and a run of Ticks (R148). -/

namespace Sys2Proof.Machine

/-! ## A Cycle in mode Running (R80 to R84) -/

section
variable {s : State} {w : Word}

theorem fetchExecute_of_error {r : Raise} (hf : fetch s = .error r) :
    fetchExecute s = .next (fetchFault r s) := by
  simp only [fetchExecute, hf]

theorem fetchExecute_of_decoded {i : Instr} (hf : fetch s = .ok w) (hd : decodeWord w = .ok i) :
    fetchExecute s = exec i s.advance := by
  simp only [fetchExecute, hf, hd]

theorem fetchExecute_of_unmatched (hf : fetch s = .ok w)
    (hd : decodeWord w = .error (.unmatched w)) :
    fetchExecute s = .next (unknownOpcode w s.pc s.advance) := by
  simp only [fetchExecute, hf, hd]

end

section
variable {s : State} {keys : BitVec 16} {rnd : Byte} {rest : List Transaction}

/-- Settles O6: the fetch reads the two bytes, and they decode. -/
theorem stepRunsDecodedInstruction : Obligations.StepRunsDecodedInstruction := by
  intro s keys rnd rest a b i hp hm hal ha hb hd
  have hf : fetch ((s.setPending rest).beginCycle keys rnd) = .ok (s.readMem a ++ s.readMem b) :=
    fetch_ok hal ha hb
  rw [step_running hp hm, fetchExecute_of_decoded hf hd]
  rfl

/-- Settles O7: the fetch reads the two bytes, and they do not decode. -/
theorem unmatchedWordOnlyReports : Obligations.UnmatchedWordOnlyReports := by
  intro s keys rnd rest a b w hp hm hal ha hb hw hd
  have hf : fetch ((s.setPending rest).beginCycle keys rnd) = .ok w := hw ▸ fetch_ok hal ha hb
  rw [step_running hp hm, fetchExecute_of_unmatched hf hd]
  rfl

/-- A fetch that fails is fault entry from the state before, with no opcode recorded (R139). -/
theorem step_of_fetch_error {r : Raise} (hp : s.pending = .cycle keys rnd :: rest)
    (hm : s.mode = .running) (hf : fetch s = .error r) :
    ∃ t, step s = .next t ∧ Faulted ⟨r.code, s.pc, 0#16, false, r.addr⟩
      { s with pending := rest, keys := 0#16, rnd := 0#8, diag := none } t := by
  have hf' : fetch ((s.setPending rest).beginCycle keys rnd) = .error r := hf
  refine ⟨_, by rw [step_running hp hm, fetchExecute_of_error hf', finishCycle_next], ?_⟩
  simp [Faulted, SameButFault, PortsSame, fetchFault]

theorem fetch_of_misaligned (hal : s.cfg.pcAlign = .strict) (hodd : s.pc.toNat % 2 = 1) :
    fetch s = .error ⟨.misalignedFetch, s.pc.setWidth 17⟩ := by
  rcases fetchCheck_cases s.cfg s.pc with ⟨-, -, h⟩ | ⟨heven, -⟩
  · simp only [fetch, h]
  · have := heven hal
    omega

/-- Settles O8: the alignment check comes before either address is resolved. -/
theorem oddFetchFaultsFirst : Obligations.OddFetchFaultsFirst := by
  intro s keys rnd rest hp hm hal hodd
  exact step_of_fetch_error hp hm (fetch_of_misaligned hal hodd)

theorem resolve_of_ge {c : Config} {ea : Nat} (hc : c.addrMode = .fault) (h : 4096 ≤ ea) :
    resolve c ea = .error ⟨.addressOutOfRange, BitVec.ofNat 17 ea⟩ := by
  simp [resolve, hc, Nat.not_lt.mpr h]

theorem fetchCheck_ok {c : Config} {pc : Word} (hal : c.pcAlign = .strict → pc.toNat % 2 = 0) :
    fetchCheck c pc = .ok () := by
  rcases fetchCheck_cases c pc with ⟨hodd, hs, -⟩ | ⟨-, h⟩
  · have := hal hs
    omega
  · exact h

/-- Only pc + 1 is out of range at the last byte of memory; above it pc itself is (R142). -/
theorem fetch_of_out_of_range (hal : s.cfg.pcAlign = .strict → s.pc.toNat % 2 = 0)
    (hc : s.cfg.addrMode = .fault) (hpc : 4095 ≤ s.pc.toNat) :
    fetch s = .error ⟨.addressOutOfRange,
      BitVec.ofNat 17 (if 4096 ≤ s.pc.toNat then s.pc.toNat else s.pc.toNat + 1)⟩ := by
  by_cases hge : 4096 ≤ s.pc.toNat
  · simp only [fetch, fetchCheck_ok hal, resolve_of_ge hc hge, if_pos hge]
  · have hlast : s.pc.toNat < 4096 := by omega
    have hnext : 4096 ≤ s.pc.toNat + 1 := by omega
    simp only [fetch, fetchCheck_ok hal, resolve_of_lt s.cfg hlast, resolve_of_ge hc hnext,
      if_neg hge]

/-- Settles O9: the fetch fails on the first of the two addresses that is out of range. -/
theorem fetchOutOfRangeFaults : Obligations.FetchOutOfRangeFaults := by
  intro s keys rnd rest hp hm hal hc hpc
  exact step_of_fetch_error hp hm (fetch_of_out_of_range hal hc hpc)

/-! ## A Cycle in another mode (R78, R86, R133) -/

theorem step_cycle_of_reset (hp : s.pending = .cycle keys rnd :: rest) (hm : s.mode = .reset) :
    step s = .next (((s.setPending rest).beginCycle keys rnd).report .notStarted).endCycle := by
  rw [step_cycle hp, hm]
  rfl

theorem step_cycle_of_halted (hp : s.pending = .cycle keys rnd :: rest) (hm : s.mode = .halted) :
    step s = .next (((s.setPending rest).beginCycle keys rnd).report .halted).endCycle := by
  rw [step_cycle hp, hm]
  rfl

theorem step_cycle_of_awaitingKey {x : Nibble} (hp : s.pending = .cycle keys rnd :: rest)
    (hm : s.mode = .awaitingKey x) :
    step s = .next (waitPoll x ((s.setPending rest).beginCycle keys rnd)).endCycle := by
  rw [step_cycle hp, hm]
  rfl

/-- A Cycle that only reports leaves everything R43 lists. -/
theorem archSame_reported (s : State) (keys : BitVec 16) (rnd : Byte) (rest : List Transaction)
    (r : Report) :
    ArchSame s (((s.setPending rest).beginCycle keys rnd).report r).endCycle := by
  simp [ArchSame]

/-- Settles O10: in both modes the Cycle only reports. -/
theorem cycleOutsideRunningDoesNothing : Obligations.CycleOutsideRunningDoesNothing := by
  intro s keys rnd rest hp
  have hsame := archSame_reported s keys rnd rest
  exact ⟨fun hm => ⟨_, step_cycle_of_reset hp hm, hsame _, rfl, rfl, rfl, rfl⟩,
    fun hm => ⟨_, step_cycle_of_halted hp hm, hsame _, rfl, rfl, rfl, rfl⟩⟩

theorem waitPoll_of_none {x : Nibble} (h : lowestKey s.keys = none) :
    waitPoll x s = s.report .waiting := by
  simp only [waitPoll, h]

theorem waitPoll_of_some {x k : Nibble} (h : lowestKey s.keys = some k) :
    waitPoll x s = (s.setMode .running).latchKey x k := by
  simp only [waitPoll, h]

/-- Settles O11: with no key found the poll only reports; with a key found it writes V[x] and the mode. -/
theorem keyWaitPoll : Obligations.KeyWaitPoll := by
  intro s keys rnd rest x hp hm
  have hstep := step_cycle_of_awaitingKey hp hm
  refine ⟨fun hnone => ?_, fun k hk hlow => ?_⟩
  · have hpoll : lowestKey ((s.setPending rest).beginCycle keys rnd).keys = none :=
      lowestKey_none.mpr hnone
    rw [waitPoll_of_none hpoll] at hstep
    exact ⟨_, hstep, archSame_reported s keys rnd rest _, rfl, rfl, rfl, rfl⟩
  · have hpoll : lowestKey ((s.setPending rest).beginCycle keys rnd).keys = some k :=
      lowestKey_eq_some hk hlow
    rw [waitPoll_of_some hpoll] at hstep
    obtain ⟨hval, hregs, -⟩ :=
      latchKey_writes_one_register (((s.setPending rest).beginCycle keys rnd).setMode .running) x k
    exact ⟨_, hstep, hval, hregs, rfl, rfl, ⟨rfl, rfl⟩, ⟨rfl, rfl⟩, fun _ _ => rfl, fun _ => rfl,
      rfl, rfl, rfl, rfl, rfl, rfl, rfl, rfl⟩

/-! ## A run of Ticks (R148) -/

/-- Settles O13, by induction on the number of Ticks: the first counts both timers down by 1, the rest of
the run by the others. -/
theorem ticksRunTimersDownToZero : Obligations.TicksRunTimersDownToZero := by
  intro n
  induction n with
  | zero => exact fun s hp => ⟨s, rfl, rfl, rfl, congrArg (State.setPending · s) hp⟩
  | succ n ih =>
    intro s hp
    obtain ⟨t, hrun, hdt, hst, ht⟩ :=
      ih { s with pending := List.replicate n .tick, dt := countDown s.dt, st := countDown s.st } rfl
    refine ⟨t, (core_run_succ (step_tick hp)).trans hrun, ?_, ?_, ht⟩
    · rw [hdt, countDown_toNat, Nat.sub_sub, Nat.add_comm]
    · rw [hst, countDown_toNat, Nat.sub_sub, Nat.add_comm]

/-! ## Load (R161) -/

theorem load_of_fits {image : List Byte} (hm : s.mode = .reset) (hfit : image.length ≤ 3584) :
    load image s = placeImage image s := by
  simp [load, hm, Nat.not_lt.mpr hfit]

theorem load_of_started {image : List Byte} (hm : s.mode ≠ .reset) :
    load image s = s.report .loadRefused := by
  unfold load
  split
  case h_1 h => exact absurd h hm
  all_goals rfl

end

/-- Settles O15: the step places the image and starts the machine, writing nothing else. -/
theorem loadPlacesImageAndStarts : Obligations.LoadPlacesImageAndStarts := by
  intro s image rest hp hm hfit hcanon
  have hcanon' : MemoryCanonical (s.setPending rest) := hcanon
  refine ⟨_, step_load hp, ?_⟩
  rw [load_of_fits (s := s.setPending rest) hm hfit]
  exact ⟨fun _ h => readMem_placeImage_inside hfit hcanon' h,
    fun _ h => readMem_placeImage_outside hfit hcanon' h, placeImage_frame image _⟩

/-- Settles O17: a Load in any mode but Reset only reports. -/
theorem loadIsRefusedOnceStarted : Obligations.LoadIsRefusedOnceStarted := by
  intro s image rest hp hm
  rw [step_load hp, load_of_started (s := s.setPending rest) hm]
  rfl

end Sys2Proof.Machine
end

section
/-! PROOF. The invariants. `step_answers` says once what a step does to the mode, the record, pc and memory;
each invariant (R35, R36, R138, log 6) is then a case analysis of it. Then the two statements about Halted
and faulting Cycles (R85, R86, R139 to R141). -/

namespace Sys2Proof.Machine

/-! ## Records that tell the truth (R138, R139) -/

theorem recordTruthful_of_raiseFits {c : Config} {i : Instr} {r : Raise} (h : RaiseFits c i r)
    (pc : Word) : RecordTruthful c ⟨r.code, pc, encode i, true, r.addr⟩ := by
  obtain ⟨hraised, hinfo⟩ := h
  exact ⟨hinfo _ _ _, fun _ => ⟨i, decodeWord_encode i, hraised⟩, fun h => Bool.noConfusion h⟩

theorem recordTruthful_of_fetch_error {s : State} {r : Raise} (h : fetch s = .error r) :
    RecordTruthful s.cfg ⟨r.code, s.pc, 0#16, false, r.addr⟩ := by
  have hpc := s.pc.isLt
  rcases fetch_cases s with ⟨hodd, hal, hf⟩ | ⟨ea, hea, hge, hmode, hf⟩ | ⟨a, b, -, -, hf⟩
  · cases hf.symm.trans h
    have haddr : (s.pc.setWidth 17).toNat = s.pc.toNat := by
      rw [BitVec.toNat_setWidth]
      omega
    exact ⟨⟨haddr, hodd, hal⟩, fun h => Bool.noConfusion h, fun _ => ⟨rfl, .inl rfl⟩⟩
  · cases hf.symm.trans h
    have haddr : memSize ≤ (BitVec.ofNat 17 ea).toNat := by
      rw [BitVec.toNat_ofNat, memSize_eq]
      omega
    exact ⟨⟨haddr, hmode⟩, fun h => Bool.noConfusion h, fun _ => ⟨rfl, .inr rfl⟩⟩
  · cases hf.symm.trans h

/-! ## What a step does -/

/-- The step from `s` to `t` takes the host's next transaction, changes no parameter (R34, R79) and keeps
idle input ports idle (R40). -/
def TakesNext (s t : State) : Prop :=
  t.cfg = s.cfg ∧ t.pending = s.pending.tail ∧ (InputsIdle s → InputsIdle t)

/-- The four ways a step can treat the mode, the record, pc and memory. -/
inductive StepEffect (s t : State) : Prop
  /-- Reset (R157). -/
  | resets (hmode : t.mode = .reset) (hfault : t.fault = none) (hmem : t.mem = [])
  /-- Nothing but timers and reports: Tick, a refused Load, a Cycle that does nothing. -/
  | stays (hmode : t.mode = s.mode) (hfault : t.fault = s.fault) (hpc : t.pc = s.pc)
      (hmem : t.mem = s.mem)
  /-- The machine runs on: a Load, a key latched, an instruction completed, an unmatched word. -/
  | proceeds (hbefore : s.mode ≠ .halted) (hafter : t.mode ≠ .halted) (hfault : t.fault = s.fault)
      (hmem : Memory.wf s.cfg s.mem = true → Memory.wf s.cfg t.mem = true)
  /-- Fault entry (R139). -/
  | faults (r : FaultRecord) (hmode : t.mode = .halted) (hfault : t.fault = some r)
      (hpc : t.pc = r.pc) (hmem : t.mem = s.mem) (htrue : RecordTruthful s.cfg r)

/-- The step from `s` answers a state it can lead to. -/
def Answers (s : State) : Prop := ∃ t, step s = .next t ∧ TakesNext s t ∧ StepEffect s t

section
variable {s : State} {keys : BitVec 16} {rnd : Byte} {image : List Byte} {rest : List Transaction}

theorem takesNext_of_cons {t : State} {a : Transaction} (hp : s.pending = a :: rest)
    (hcfg : t.cfg = s.cfg) (hrest : t.pending = rest) (hidle : InputsIdle s → InputsIdle t) :
    TakesNext s t :=
  ⟨hcfg, by rw [hp, hrest, List.tail_cons], hidle⟩

theorem answers_of_nil (hp : s.pending = []) : Answers s :=
  ⟨s, step_nil hp, ⟨rfl, by rw [hp, List.tail_nil], id⟩, .stays rfl rfl rfl rfl⟩

theorem answers_of_reset (hp : s.pending = .reset :: rest) : Answers s :=
  ⟨_, step_reset hp, takesNext_of_cons hp rfl rfl fun _ => ⟨rfl, rfl⟩, .resets rfl rfl rfl⟩

theorem answers_of_tick (hp : s.pending = .tick :: rest) : Answers s :=
  ⟨_, step_tick hp, takesNext_of_cons hp rfl rfl id, .stays rfl rfl rfl rfl⟩

theorem placeImage_wf (hfit : image.length ≤ 3584) (hm : Memory.wf s.cfg s.mem = true) :
    Memory.wf s.cfg (placeImage image s).mem = true :=
  writeMem_wf s (imageCells_lt (by simp only [loadAddr_eq]; omega)) hm

/-- A Load either reports only, or places an image that fits in mode Reset, cut if it was too long. -/
theorem load_cases (image : List Byte) (s : State) :
    (∃ r, load image s = s.report r) ∨
    (s.mode = .reset ∧ ∃ (fit : List Byte) (cut : Bool), fit.length ≤ 3584 ∧
      load image s = placeImage fit { s with loadTruncated := cut }) := by
  by_cases hm : s.mode = .reset
  · by_cases hfit : image.length ≤ 3584
    · exact .inr ⟨hm, image, s.loadTruncated, hfit, load_of_fits hm hfit⟩
    · have hlong : 3584 < image.length := by omega
      cases hc : s.cfg.loadOversize with
      | truncate =>
        exact .inr ⟨hm, image.take 3584, true, List.length_take_le .., load_of_truncate hm hlong hc⟩
      | reject => exact .inl ⟨_, load_of_reject hm hlong hc⟩
  · exact .inl ⟨_, load_of_started hm⟩

theorem answers_of_load (hp : s.pending = .load image :: rest) : Answers s := by
  have hstep := step_load hp
  rcases load_cases image (s.setPending rest) with ⟨r, h⟩ | ⟨hm, fit, cut, hfit, h⟩
  · rw [h] at hstep
    exact ⟨_, hstep, takesNext_of_cons hp rfl rfl id, .stays rfl rfl rfl rfl⟩
  · rw [h] at hstep
    have hbefore : s.mode ≠ .halted := by simp [show s.mode = .reset from hm]
    exact ⟨_, hstep, takesNext_of_cons hp rfl rfl id,
      .proceeds hbefore Mode.noConfusion rfl
        (placeImage_wf (s := { s with loadTruncated := cut }) hfit)⟩

/-- A Cycle's answer keeps the configuration and the host's list, and its ports end idle. -/
theorem answers_of_cycle {u : State} (hp : s.pending = .cycle keys rnd :: rest)
    (hstep : step s = .next u.endCycle) (hcfg : u.cfg = s.cfg) (hrest : u.pending = rest)
    (heffect : StepEffect s u.endCycle) : Answers s :=
  ⟨_, hstep, takesNext_of_cons hp hcfg hrest fun _ => ⟨rfl, rfl⟩, heffect⟩

theorem answers_of_awaitingKey {x : Nibble} (hp : s.pending = .cycle keys rnd :: rest)
    (hm : s.mode = .awaitingKey x) : Answers s := by
  have hstep := step_cycle_of_awaitingKey hp hm
  cases hpoll : lowestKey ((s.setPending rest).beginCycle keys rnd).keys with
  | none =>
    rw [waitPoll_of_none hpoll] at hstep
    exact answers_of_cycle hp hstep rfl rfl (.stays rfl rfl rfl rfl)
  | some k =>
    rw [waitPoll_of_some hpoll] at hstep
    exact answers_of_cycle hp hstep rfl rfl (.proceeds (by simp [hm]) Mode.noConfusion rfl id)

theorem answers_of_running (hp : s.pending = .cycle keys rnd :: rest) (hm : s.mode = .running) :
    Answers s := by
  have hbefore : s.mode ≠ .halted := by simp [hm]
  rcases step_running_cases hp hm with ⟨r, hf, hstep⟩ | ⟨w, i, -, -, hstep⟩ | ⟨w, -, -, hstep⟩
  · exact answers_of_cycle hp hstep rfl rfl
      (.faults _ rfl rfl rfl rfl (recordTruthful_of_fetch_error hf))
  · rcases exec_cases i ((s.setPending rest).beginCycle keys rnd).advance with
      ⟨t, hexec, ⟨hfault, -, ⟨hcfg, hpend, -⟩, hwf⟩, hmode⟩ | ⟨r, hexec, hfits⟩
    · rw [hexec, finishCycle_next] at hstep
      have hafter : t.mode ≠ .halted := by
        rcases hmode with h | ⟨x, -, h⟩ <;> rw [h]
        · exact hbefore
        · exact Mode.noConfusion
      exact answers_of_cycle hp hstep hcfg hpend
        (.proceeds hbefore hafter hfault fun h => hcfg ▸ hwf h)
    · rw [hexec, finishCycle_next] at hstep
      exact answers_of_cycle hp hstep rfl rfl
        (.faults _ rfl rfl rfl rfl (recordTruthful_of_raiseFits hfits _))
  · exact answers_of_cycle hp hstep rfl rfl (.proceeds hbefore hbefore rfl id)

end

/-- Every step answers a next state, in one of the four ways. -/
theorem step_answers (s : State) : Answers s := by
  match hp : s.pending with
  | [] => exact answers_of_nil hp
  | .reset :: rest => exact answers_of_reset hp
  | .load image :: rest => exact answers_of_load hp
  | .tick :: rest => exact answers_of_tick hp
  | .cycle keys rnd :: rest =>
    cases hm : s.mode with
    | reset =>
      exact answers_of_cycle hp (step_cycle_of_reset hp hm) rfl rfl (.stays rfl rfl rfl rfl)
    | halted =>
      exact answers_of_cycle hp (step_cycle_of_halted hp hm) rfl rfl (.stays rfl rfl rfl rfl)
    | awaitingKey x => exact answers_of_awaitingKey hp hm
    | running => exact answers_of_running hp hm

theorem step_effect {s t : State} (h : step s = .next t) : t.cfg = s.cfg ∧ StepEffect s t := by
  obtain ⟨u, hu, ⟨hcfg, -⟩, heffect⟩ := step_answers s
  cases hu.symm.trans h
  exact ⟨hcfg, heffect⟩

/-! ## The invariants -/

/-- Settles O51: only a step that proceeds writes memory, and it keeps the form; Reset empties the list. -/
theorem stepKeepsMemoryCanonical : Obligations.StepKeepsMemoryCanonical := by
  intro s t hs h
  obtain ⟨hcfg, heffect⟩ := step_effect h
  unfold MemoryCanonical at hs ⊢
  rw [hcfg]
  cases heffect with
  | resets _ _ hmem => rw [hmem]; rfl
  | stays _ _ _ hmem => rwa [hmem]
  | proceeds _ _ _ hmem => exact hmem hs
  | faults _ _ _ _ hmem => rwa [hmem]

/-- Settles O52: a step that proceeds starts and ends outside Halted with the same record, so with none. -/
theorem stepKeepsHaltedMatchesRecord : Obligations.StepKeepsHaltedMatchesRecord := by
  rintro s t ⟨hiff, hpcs⟩ h
  obtain ⟨-, heffect⟩ := step_effect h
  unfold HaltedMatchesRecord
  cases heffect with
  | resets hmode hfault => simp [hmode, hfault]
  | stays hmode hfault hpc => rw [hmode, hfault, hpc]; exact ⟨hiff, hpcs⟩
  | proceeds hbefore hafter hfault =>
    have hnone : s.fault = none := not_not.mp (mt hiff.mpr hbefore)
    simp [hafter, hfault, hnone]
  | faults r hmode hfault hpc => simp [hmode, hfault, hpc]

/-- Settles O53: the record is the one before, none, or that of a fault just taken. -/
theorem stepKeepsFaultTruthful : Obligations.StepKeepsFaultTruthful := by
  intro s t hs h r hr
  obtain ⟨hcfg, heffect⟩ := step_effect h
  rw [hcfg]
  cases heffect with
  | resets _ hfault => cases hfault.symm.trans hr
  | stays _ hfault => exact hs r (hfault ▸ hr)
  | proceeds _ _ hfault => exact hs r (hfault ▸ hr)
  | faults r' _ hfault _ _ htrue => cases hfault.symm.trans hr; exact htrue

/-- Settles O54: the reset state has an empty memory list, no record and idle ports, and 0x050 + 80 is
below 0x200. -/
theorem resetMeetsInvariants : Obligations.ResetMeetsInvariants := by
  have hmatch : HaltedMatchesRecord State.reset := by simp [HaltedMatchesRecord, State.reset]
  have htrue : FaultTruthful State.reset := fun _ h => nomatch h
  exact ⟨reset_mem_wf, hmatch, htrue, rfl, Mode.noConfusion, rfl, rfl⟩

/-- Settles O55: every step answers, whatever effect it has on the rest of the state. -/
theorem stepAlwaysAnswersAndKeepsConfig : Obligations.StepAlwaysAnswersAndKeepsConfig := by
  intro s
  obtain ⟨t, hstep, hnext, -⟩ := step_answers s
  exact ⟨t, hstep, hnext⟩

/-! ## Halted (R86, R141, R143) -/

/-- From `s` to `t` a Halted machine stays as it is; only the timers may run down. -/
def StaysHalted (s t : State) : Prop :=
  t.mode = .halted ∧ SameButFault { s with dt := t.dt, st := t.st } t ∧ t.fault = s.fault ∧
    t.pc = s.pc ∧ t.dt.toNat ≤ s.dt.toNat ∧ t.st.toNat ≤ s.st.toNat

/-- The timers may run down, and the ports, the reports and the host's list are not spoken of. -/
theorem staysHalted_update {s : State} {dt st : Byte} (hm : s.mode = .halted)
    (hdt : dt.toNat ≤ s.dt.toNat) (hst : st.toNat ≤ s.st.toNat) (keys : BitVec 16) (rnd : Byte)
    (o : Option Report) (d : Option Diag) (l : List Transaction) :
    StaysHalted s { s with
      dt := dt, st := st, keys := keys, rnd := rnd, outcome := o, diag := d, pending := l } :=
  ⟨hm, ⟨rfl, rfl, rfl, rfl, rfl, rfl, rfl, rfl, rfl, rfl⟩, rfl, rfl, hdt, hst⟩

theorem StaysHalted.refl {s : State} (hm : s.mode = .halted) : StaysHalted s s :=
  staysHalted_update hm le_rfl le_rfl s.keys s.rnd s.outcome s.diag s.pending

theorem StaysHalted.trans {s t u : State} (hst : StaysHalted s t) (htu : StaysHalted t u) :
    StaysHalted s u := by
  obtain ⟨-, ⟨hv, hi, hk, hsp, -, -, hfb, hmem, hlt, hcfg⟩, hf, hpc, hdt, hst⟩ := hst
  obtain ⟨hm, ⟨hv', hi', hk', hsp', -, -, hfb', hmem', hlt', hcfg'⟩, hf', hpc', hdt', hst'⟩ := htu
  exact ⟨hm, ⟨hv'.trans hv, hi'.trans hi, hk'.trans hk, hsp'.trans hsp, rfl, rfl, hfb'.trans hfb,
    hmem'.trans hmem, hlt'.trans hlt, hcfg'.trans hcfg⟩, hf'.trans hf, hpc'.trans hpc,
    hdt'.trans hdt, hst'.trans hst⟩

theorem countDown_le (b : Byte) : (countDown b).toNat ≤ b.toNat := by
  rw [countDown_toNat]
  exact Nat.sub_le ..

/-- One transaction that is no Reset leaves a Halted machine Halted. -/
theorem step_of_halted {s : State} {a : Transaction} {rest : List Transaction}
    (hm : s.mode = .halted) (hp : s.pending = a :: rest) (ha : a ≠ .reset) :
    ∃ t, step s = .next t ∧ t.pending = rest ∧ StaysHalted s t := by
  cases a with
  | reset => exact absurd rfl ha
  | load image =>
    have hstarted : (s.setPending rest).mode ≠ .reset := by simp [hm]
    have hstep := step_load hp
    rw [load_of_started hstarted] at hstep
    exact ⟨_, hstep, rfl, staysHalted_update hm le_rfl le_rfl s.keys s.rnd _ s.diag rest⟩
  | cycle keys rnd =>
    exact ⟨_, step_cycle_of_halted hp hm, rfl, staysHalted_update hm le_rfl le_rfl _ _ _ _ rest⟩
  | tick =>
    exact ⟨_, step_tick hp, rfl, staysHalted_update hm (countDown_le s.dt) (countDown_le s.st)
      s.keys s.rnd s.outcome s.diag rest⟩

/-- Settles O56, by induction on the number of steps; with nothing more to come a step leaves the state. -/
theorem haltedLastsUntilReset : Obligations.HaltedLastsUntilReset := by
  intro n
  induction n with
  | zero => exact fun s hm _ => ⟨s, rfl, StaysHalted.refl hm⟩
  | succ n ih =>
    intro s hm hno
    cases hp : s.pending with
    | nil =>
      obtain ⟨t, hrun, ht⟩ := ih s hm (by simp [hp])
      exact ⟨t, (core_run_succ (step_nil hp)).trans hrun, ht⟩
    | cons a rest =>
      rw [hp, List.take_succ_cons, List.forall_mem_cons] at hno
      obtain ⟨ha, hno⟩ := hno
      obtain ⟨u, hstep, hrest, hu⟩ := step_of_halted hm hp ha
      have ⟨hum, _⟩ := hu
      obtain ⟨t, hrun, ht⟩ := ih u hum (by rwa [hrest])
      exact ⟨t, (core_run_succ hstep).trans hrun, hu.trans ht⟩

/-! ## Faults are precise (R85, R139, R140) -/

/-- Settles O18: a Cycle in mode Running ends Halted only by fault entry, in the fetch or in the
instruction. In the second case pc - 2 is the address of the instruction again, and its encoding is the
word fetched. -/
theorem faultsArePrecise : Obligations.FaultsArePrecise := by
  intro s t keys rnd rest hp hm hstep hhalt
  rcases step_running_cases hp hm with ⟨r, hf, h⟩ | ⟨w, i, hf, hd, h⟩ | ⟨w, hf, -, h⟩
  · cases h.symm.trans hstep
    exact ⟨⟨r.code, s.pc, 0#16, false, r.addr⟩, rfl, rfl, by simp [hf], by simp [hf], fun _ => rfl⟩
  · rcases exec_cases i ((s.setPending rest).beginCycle keys rnd).advance with
      ⟨u, hexec, -, hmode⟩ | ⟨r, hexec, -⟩
    · rw [hexec, finishCycle_next] at h
      cases h.symm.trans hstep
      rcases hmode with hu | ⟨x, -, hu⟩
      · cases (hm.symm.trans hu.symm).trans hhalt
      · cases hu.symm.trans hhalt
    · rw [hexec, finishCycle_next] at h
      cases h.symm.trans hstep
      have hpc : s.pc + 2#16 - 2#16 = s.pc := BitVec.add_sub_cancel ..
      have hw : encode i = w := encodeOfDecodeIsTheWord w i hd
      refine ⟨⟨r.code, s.pc, w, true, r.addr⟩, ?_, rfl, by simp [hf], by simp [hf],
        fun h => Bool.noConfusion h⟩
      simp [instrFault_eq, hpc, hw, State.endCycle]
  · cases h.symm.trans hstep
    cases hm.symm.trans hhalt

end Sys2Proof.Machine
end

section
/-! PROOF. What instructions do together, or with the state around them: a call and its return, the font
and its addresses, stores read back by loads and by the fetch, a sprite drawn twice, and the key skips.
Then the canonical form of memory (log 6) and the outputs (R41). -/

namespace Sys2Proof.Machine

/-! ## Calls and returns (R28, R90, R92) -/

/-- Settles O29: the entry the return pops is the one the call pushed, and the call wrote no entry below
it. -/
theorem callThenReturnComesBack : Obligations.CallThenReturnComesBack := by
  intro nnn s hroom
  refine ⟨_, _, exec_call_of_lt nnn hroom, exec_ret_of_pos (Nat.succ_pos _), ?_, rfl, ?_,
    fun _ _ => rfl, rfl, fun _ => rfl, fun _ _ => rfl⟩
  · simp
  · intro k hk hlt
    have hne : s.sp.val ≠ k := by omega
    simp [hne]

/-! ## The font (R118, R159) -/

/-- Settles O34: the font lies below 0x200, so the address of the glyph is exact, and the five bytes there
are its entries of the table. -/
theorem fontAddressPointsAtGlyph : Obligations.FontAddressPointsAtGlyph := by
  intro x s hwf hmult hvx hfont
  have hbase : s.cfg.fontBase + 80 ≤ 512 := by simpa [Config.wellFormed] using hwf
  have haddr : (fontAddr s.cfg (s.readReg x)).toNat
      = s.cfg.fontBase + 5 * (s.readReg x).toNat := by
    rw [fontAddr_toNat, if_pos hmult]
    omega
  refine ⟨_, rfl, fun r _ h => ?_⟩
  change s.readMem ((fontAddr s.cfg (s.readReg x)).toNat + r) = _
  rw [haddr, Nat.add_assoc]
  exact hfont _ h

/-! ## Stores inside memory (R49, R120 to R122) -/

theorem reaches_of_le {s : State} {n : Nat} (h : s.i.toNat + n ≤ 4096) : Reaches s n :=
  fun k hk => ⟨_, resolve_of_lt s.cfg (by omega : s.i.toNat + k < 4096)⟩

theorem byteAtIndex_of_lt {s : State} {k : Nat} (h : s.i.toNat + k < 4096) :
    s.byteAtIndex k = s.readMem (s.i.toNat + k) := by
  simp only [State.byteAtIndex, resolve_of_lt s.cfg h]

/-- Inside memory the addresses of a store are distinct, so byte k is at I + k. -/
theorem StoresAtIndex.readMem {s t : State} {n : Nat} {val : Nat → Byte}
    (hstores : StoresAtIndex s t n val) (hn : s.i.toNat + n ≤ 4096) {k : Nat} (hk : k < n) :
    t.readMem (s.i.toNat + k) = val k := by
  obtain ⟨-, hwritten⟩ := hstores
  have hresolve : ∀ j < n, resolve s.cfg (s.i.toNat + j) = .ok (s.i.toNat + j) :=
    fun j hj => resolve_of_lt s.cfg (by omega)
  refine hwritten k hk _ (hresolve k hk) fun j hj hkj h => ?_
  rw [hresolve j hj, Except.ok.injEq] at h
  omega

/-- Settles O36: the digits are those of O35, and each fits a byte. -/
theorem decimalDigitsRebuildTheValue : Obligations.DecimalDigitsRebuildTheValue := by
  intro x s hm hi
  obtain ⟨-, hstore, -⟩ := decimalStoreWritesDigits x s
  have hrange : s.i.toNat + 3 ≤ 4096 := by omega
  obtain ⟨t, ht, -, hstores⟩ := hstore hm (reaches_of_le hrange)
  have hhundreds := hstores.readMem hrange (k := 0) (by omega)
  have htens := hstores.readMem hrange (k := 1) (by omega)
  have hunits := hstores.readMem hrange (k := 2) (by omega)
  have hvx := (s.readReg x).isLt
  refine ⟨t, ht, ?_⟩
  rw [Nat.add_zero] at hhundreds
  rw [hhundreds, htens, hunits]
  simp only [BitVec.toNat_ofNat, if_true, one_ne_zero, OfNat.ofNat_ne_zero, OfNat.ofNat_ne_one,
    if_false]
  omega

/-- Settles O39: I + k holds V[k] after the store, and the load reads I + k into V[k]. -/
theorem storedRegistersLoadBack : Obligations.StoredRegistersLoadBack := by
  intro x s t u hm hi hexec humem hucfg hui
  have hrange : s.i.toNat + (x.toNat + 1) ≤ 4096 := by omega
  obtain ⟨-, hstore, -⟩ := storeRegistersWritesRange x s
  obtain ⟨t', ht', ⟨-, hti, -⟩, hstores⟩ := hstore hm (reaches_of_le hrange)
  cases ht'.symm.trans hexec
  have hui' : u.i = s.i := hui.trans hti
  obtain ⟨-, hload, -⟩ := loadRegistersReadsRange x u
  obtain ⟨w, hw, hregs, -⟩ := hload (reaches_of_le (by rwa [hui']))
  refine ⟨w, hw, fun k hk => ?_⟩
  have hread : u.byteAtIndex k.toNat = t.readMem (s.i.toNat + k.toNat) := by
    rw [byteAtIndex_of_lt (by rw [hui']; omega), hui']
    simp only [State.readMem, humem, hucfg]
  rw [hregs k, if_pos hk, hread, hstores.readMem hrange (Nat.lt_succ_of_le hk), BitVec.ofNat_toNat,
    BitVec.setWidth_eq]

/-! ## The canonical form of memory (log 6) -/

/-- A memory with no cell at `a` or below reads there as the reset contents, which no cell of a canonical
memory holds. -/
theorem Memory.read_ne_of_first_cell {c : Config} {a : Nat} {w : Byte} {m n : Memory}
    (hw : w ≠ resetByte c a) (hn : Memory.wfFrom c (a + 1) n = true) :
    Memory.read c ((a, w) :: m) a ≠ Memory.read c n a := by
  rw [Memory.read_below c (Nat.lt_succ_self a) hn]
  simpa [Memory.read] using hw

/-- The two memories are compared cell by cell: a first cell that the other memory lacks, or has only
higher up, would be read differently. -/
theorem Memory.eq_of_read_eq (c : Config) : ∀ {m n : Memory} {lo : Nat},
    Memory.wfFrom c lo m = true → Memory.wfFrom c lo n = true →
    (∀ a, lo ≤ a → Memory.read c m a = Memory.read c n a) → m = n
  | [], [], _, _, _, _ => rfl
  | [], (b, u) :: n, lo, _, hbn, h => by
    obtain ⟨hlo, -, hu, -⟩ := (Memory.wfFrom_cons c lo b u n).mp hbn
    exact absurd (h b hlo).symm (Memory.read_ne_of_first_cell hu rfl)
  | (a, w) :: m, [], lo, ham, _, h => by
    obtain ⟨hlo, -, hw, -⟩ := (Memory.wfFrom_cons c lo a w m).mp ham
    exact absurd (h a hlo) (Memory.read_ne_of_first_cell hw rfl)
  | (a, w) :: m, (b, u) :: n, lo, ham, hbn, h => by
    obtain ⟨hla, ha, hw, hm⟩ := (Memory.wfFrom_cons c lo a w m).mp ham
    obtain ⟨hlb, hb, hu, hn⟩ := (Memory.wfFrom_cons c lo b u n).mp hbn
    rcases Nat.lt_trichotomy a b with hab | rfl | hba
    · have hbn' := (Memory.wfFrom_cons c (a + 1) b u n).mpr ⟨hab, hb, hu, hn⟩
      exact absurd (h a hla) (Memory.read_ne_of_first_cell hw hbn')
    · have hwu : w = u := by simpa [Memory.read] using h a hla
      have hmn : m = n := Memory.eq_of_read_eq c hm hn fun e he => by
        have hne : a ≠ e := by omega
        simpa [Memory.read, hne] using h e (by omega)
      rw [hwu, hmn]
    · have ham' := (Memory.wfFrom_cons c (b + 1) a w m).mpr ⟨hba, ha, hw, hm⟩
      exact absurd (h b hlb).symm (Memory.read_ne_of_first_cell hu ham')

/-- Settles O41: the comparison from address 0 on. -/
theorem canonicalMemoriesAreEqual : Obligations.CanonicalMemoriesAreEqual :=
  fun c _ _ hm hn h => Memory.eq_of_read_eq c (lo := 0) hm hn fun a _ => h a

/-! ## The fetch of a word just stored (R59) -/

/-- Settles O42: the fetch reads the two cells written, and the bytes of a word make the word again. -/
theorem fetchSeesStoredWord : Obligations.FetchSeesStoredWord := by
  intro s w hm hal hpc
  have hcells : ∀ x ∈ [(s.pc.toNat, highByte w), (s.pc.toNat + 1, lowByte w)], x.1 < 4096 := by
    simpa using ⟨Nat.lt_of_succ_lt hpc, hpc⟩
  have hread := fun a => Memory.read_writeAll s.cfg (e := a) hcells hm
  change fetch (s.writeMem [(s.pc.toNat, highByte w), (s.pc.toNat + 1, lowByte w)]) = .ok w
  rw [fetch_ok (s := s.writeMem _) hal (resolve_of_lt s.cfg (Nat.lt_of_succ_lt hpc))
    (resolve_of_lt s.cfg hpc)]
  simp [hread, lastWrite]

/-! ## Drawing twice (R125, R127) -/

section
variable {s t : State} {n : Nat}

theorem reaches_congr (hcfg : t.cfg = s.cfg) (hi : t.i = s.i) (h : Reaches s n) : Reaches t n := by
  simpa only [Reaches, hcfg, hi] using h

theorem spriteRows_congr (hcfg : t.cfg = s.cfg) (hi : t.i = s.i) (hmem : MemSame s t) :
    t.spriteRows n = s.spriteRows n := by
  refine List.map_congr_left fun k _ => ?_
  simp only [State.byteAtIndex, hcfg, hi]
  split
  · exact hmem _
  · rfl

end

/-- Settles O45: from coordinates that VF does not hold, the second draw covers the same cells; a covered
cell it finds true is one the first draw flipped to true. -/
theorem drawingTwiceRestoresDisplay : Obligations.DrawingTwiceRestoresDisplay := by
  intro x y n s t u hx hy hr ht hu
  obtain ⟨-, hfirst, -⟩ := drawXorsVisibleCells x y n s
  obtain ⟨t', ht', hpix, -, -, hregs, hi, hmem, ⟨-, -, -, hcfg, -⟩, -⟩ := hfirst hr
  cases ht'.symm.trans ht
  obtain ⟨-, hsecond, -⟩ := drawXorsVisibleCells x y n t
  obtain ⟨u', hu', hpix', hflag, -⟩ := hsecond (reaches_congr hcfg hi hr)
  cases hu'.symm.trans hu
  rw [spriteRows_congr hcfg hi hmem, hregs x (by simpa using hx), hregs y (by simpa using hy)]
    at hpix' hflag
  refine ⟨fun c r => ?_, hflag.trans (exists_congr fun c => exists_congr fun r => ?_)⟩
  · rw [hpix', hpix, Bool.xor_assoc, Bool.xor_self, Bool.xor_false]
  · rw [hpix]
    cases s.pixel c r <;> simp

/-! ## Key skips (R129 to R131) -/

section
variable {x : Nibble} {s : State}

theorem exec_skp_of_ok {k : Nibble} (h : keyIndex s.cfg (s.readReg x) = .ok k) :
    exec (.skp x) s = retire (s.skipIf (keyPressed s.keys k)) := by
  simp only [exec, execSkp, h, answer]

theorem exec_skp_of_error {r : Raise} (h : keyIndex s.cfg (s.readReg x) = .error r) :
    exec (.skp x) s = .next (instrFault (.skp x) r s) := by
  simp only [exec, execSkp, h, answer]

theorem exec_sknp_of_ok {k : Nibble} (h : keyIndex s.cfg (s.readReg x) = .ok k) :
    exec (.sknp x) s = retire (s.skipIf (!keyPressed s.keys k)) := by
  simp only [exec, execSknp, h, answer]

theorem exec_sknp_of_error {r : Raise} (h : keyIndex s.cfg (s.readReg x) = .error r) :
    exec (.sknp x) s = .next (instrFault (.sknp x) r s) := by
  simp only [exec, execSknp, h, answer]

end

theorem keyIndex_of_admitted {c : Config} {v : Byte} (h : v.toNat ≤ 15 ∨ c.keyIndexMode = .lowNibble) :
    keyIndex c v = .ok (v.setWidth 4) := by
  rcases keyIndex_cases c v with ⟨-, hk⟩ | ⟨hgt, hmode, -⟩ | ⟨-, -, hk⟩
  · exact hk
  · rcases h with hle | hlow
    · omega
    · cases hmode.symm.trans hlow
  · exact hk

theorem keyIndex_of_fault {c : Config} {v : Byte} (h : 15 < v.toNat) (hc : c.keyIndexMode = .fault) :
    keyIndex c v = .error ⟨.keyIndexOutOfRange, v.setWidth 17⟩ := by
  simp [keyIndex, hc, Nat.not_le.mpr h]

/-- Settles O47: an index admitted names the key VX mod 16, and both are skips on it; another is the fault
KeyIndex raises. -/
theorem keySkipsTestTheNamedKey : Obligations.KeySkipsTestTheNamedKey := by
  intro x s
  refine ⟨decodeWord_skp x, decodeWord_sknp x, fun hadm => ?_, fun hgt hfault => ?_⟩
  · have hk := keyIndex_of_admitted hadm
    rw [exec_skp_of_ok hk, exec_sknp_of_ok hk, keyPressed, BitVec.toNat_setWidth]
    exact ⟨retire_skipIf s Iff.rfl, retire_skipIf s (iff_of_eq (Bool.not_eq_true' _))⟩
  · have hk := keyIndex_of_fault hgt hfault
    exact ⟨⟨_, exec_skp_of_error hk, faulted_instrFault (.skp x) _ s⟩,
      ⟨_, exec_sknp_of_error hk, faulted_instrFault (.sknp x) _ s⟩⟩

/-! ## Outputs (R41) -/

theorem fbFlat_getLsbD (s : State) {x y : Nat} (hx : x < 64) (hy : y < 32) :
    s.fbFlat.getLsbD (y * 64 + x) = s.pixel x y := by
  have hlt : y * 64 + x < 2048 := by omega
  have hcol : (y * 64 + x) % 64 = x := by omega
  have hrow : (y * 64 + x) / 64 = y := by omega
  rw [State.fbFlat, BitVec.getLsbD_ofFnLE, dif_pos hlt, hcol, hrow]

theorem waitReg_of_awaitingKey {s : State} {x : Nibble} (h : s.mode = .awaitingKey x) :
    s.waitReg = x := by
  simp only [State.waitReg, h]

theorem waitReg_of_not_awaitingKey {s : State} (h : ∀ x, s.mode ≠ .awaitingKey x) :
    s.waitReg = 0#4 := by
  unfold State.waitReg
  split
  case h_1 x hx => exact absurd hx (h x)
  all_goals rfl

/-- Settles O50: each output is one reading of the state, and the record's are those of `Option.map`. -/
theorem outputsShowTheState : Obligations.OutputsShowTheState := by
  intro s
  refine ⟨fun x y hx hy => fbFlat_getLsbD s hx hy, soundActive_iff s, rfl,
    fun x => waitReg_of_awaitingKey, waitReg_of_not_awaitingKey, fun hnone => ?_, fun r hr => ?_⟩
  · simp [State.faultCode, State.faultPc, State.faultOpcode, State.faultOpcodeValid,
      State.faultAddr, hnone]
  · simp [State.faultCode, State.faultPc, State.faultOpcode, State.faultOpcodeValid,
      State.faultAddr, hr]

end Sys2Proof.Machine
end

section
/-! PROOF. What holds of every instruction: each part of the state has its writers (R21, R24, R27, R29 to
R31, R47), only FX0A suspends (R166), and a Cycle's inputs reach only their readers (R32, R33, R40). -/

namespace Sys2Proof.Machine

/-! ## Inversion of the instructions that can fault -/

/-- An instruction that resolves the range I, I + 1, … ends in what it does with the addresses, or in the
fault of the range. -/
theorem exec_range_cases {i : Instr} {s t : State} {n : Nat} {f : List Nat → State}
    (hok : ∀ {l}, s.indexAddrs n = .ok l → exec i s = .next (f l))
    (herr : ∀ {r}, s.indexAddrs n = .error r → exec i s = .next (instrFault i r s))
    (h : exec i s = .next t) : (∃ l, s.indexAddrs n = .ok l ∧ t = f l) ∨ ∃ r, t = instrFault i r s := by
  cases hl : s.indexAddrs n with
  | ok l => exact .inl ⟨l, rfl, Host.Outcome.next.inj (h.symm.trans (hok hl))⟩
  | error r => exact .inr ⟨r, Host.Outcome.next.inj (h.symm.trans (herr hl))⟩

theorem exec_drw_of_ok {x y n : Nibble} {s : State} {l : List Nat}
    (h : s.indexAddrs n.toNat = .ok l) :
    exec (.drw x y n) s = .next (((s.setFb (s.spriteDrawn x y n).1).writeFlag
      (s.spriteDrawn x y n).2).report .executed) := by
  simp only [exec, execDrw, h, answer, retire_eq, map_readMem_eq_spriteRows h, State.spriteDrawn]

/-! ## Who writes what -/

/-- The registers an instruction may write (R21, R101 to R113, R122, R132, R134). -/
def MayWriteReg : Instr → Nibble → Prop
  | .ldImm x _, r => r = x
  | .addImm x _, r => r = x
  | .rnd x _, r => r = x
  | .ldReg x _, r => r = x
  | .orReg x _, r => r = x
  | .andReg x _, r => r = x
  | .xorReg x _, r => r = x
  | .ldVxDt x, r => r = x
  | .ldVxKey x, r => r = x
  | .addReg x _, r => r = 0xF#4 ∨ r = x
  | .subReg x _, r => r = 0xF#4 ∨ r = x
  | .shrReg x _, r => r = 0xF#4 ∨ r = x
  | .subnReg x _, r => r = 0xF#4 ∨ r = x
  | .shlReg x _, r => r = 0xF#4 ∨ r = x
  | .addI _, r => r = 0xF#4
  | .drw _ _ _, r => r = 0xF#4
  | .loadRegs x, r => r.toNat ≤ x.toNat
  | _, _ => False

/-- From `s` to `t` instruction `i` writes only what is its own to write. -/
structure OwnWrites (i : Instr) (s t : State) : Prop where
  regs : ∀ r, t.readReg r ≠ s.readReg r → MayWriteReg i r
  fb : t.fb ≠ s.fb → i = .cls ∨ ∃ x y n, i = .drw x y n
  mem : t.mem ≠ s.mem → ∃ x, i = .ldBcd x ∨ i = .storeRegs x
  index : t.i ≠ s.i → (∃ nnn, i = .ldI nnn) ∨ ∃ x, i = .addI x ∨ i = .ldFont x
  stack : t.stack ≠ s.stack ∨ t.sp ≠ s.sp → i = .ret ∨ ∃ nnn, i = .call nnn
  dt : t.dt ≠ s.dt → ∃ x, i = .ldDtVx x
  st : t.st ≠ s.st → ∃ x, i = .ldStVx x

/-- An update of registers, pc, mode, record and outcome is the instruction's own if its registers are. -/
theorem ownWrites_update {i : Instr} {s : State} {v : Vector Byte 16} {pc : Word} {m : Mode}
    {f : Option FaultRecord} {o : Option Report}
    (hregs : ∀ r, State.readReg { s with v := v } r ≠ s.readReg r → MayWriteReg i r) :
    OwnWrites i s { s with v := v, pc := pc, mode := m, fault := f, outcome := o } := by
  refine ⟨hregs, ?_, ?_, ?_, ?_, ?_, ?_⟩ <;> simp

theorem ownWrites_instrFault (i : Instr) (r : Raise) (s : State) : OwnWrites i s (instrFault i r s) :=
  ownWrites_update fun _ h => absurd rfl h

theorem eq_of_readReg_writeReg_ne {s : State} {x r : Nibble} {b : Byte}
    (h : (s.writeReg x b).readReg r ≠ s.readReg r) : r = x := by
  by_contra hne
  exact h (by rw [readReg_writeReg, if_neg (Ne.symm hne)])

theorem eq_of_readReg_writeResultFlag_ne {s : State} {x r : Nibble} {b : Byte} {f : Bool}
    (h : (s.writeResultFlag x b f).readReg r ≠ s.readReg r) : r = 0xF#4 ∨ r = x := by
  by_contra hne
  obtain ⟨hF, hx⟩ := not_or.mp hne
  exact h (by rw [readReg_writeResultFlag, if_neg (Ne.symm hF), if_neg (Ne.symm hx)])

theorem ownWrites_writeReg {i : Instr} {s : State} {x : Nibble} {b : Byte} {o : Report}
    (hi : MayWriteReg i x) : OwnWrites i s ((s.writeReg x b).report o) :=
  ownWrites_update fun _ h => eq_of_readReg_writeReg_ne h ▸ hi

theorem ownWrites_writeResultFlag {i : Instr} {s : State} {x : Nibble} {b : Byte} {f : Bool}
    (hi : ∀ r, r = 0xF#4 ∨ r = x → MayWriteReg i r) :
    OwnWrites i s ((s.writeResultFlag x b f).report .executed) :=
  ownWrites_update fun r h => hi r (eq_of_readReg_writeResultFlag_ne h)

theorem skipIf_eq_setPc (s : State) (b : Bool) :
    s.skipIf b = s.setPc (if b then s.pc + 2#16 else s.pc) := by
  cases b <;> rfl

theorem ownWrites_skipIf (i : Instr) (s : State) (b : Bool) :
    OwnWrites i s ((s.skipIf b).report .executed) := by
  rw [skipIf_eq_setPc]
  exact ownWrites_update fun _ h => absurd rfl h

theorem exec_ownWrites {i : Instr} {s t : State} (h : exec i s = .next t) : OwnWrites i s t := by
  cases i
  case ldImm | addImm | rnd | ldReg | orReg | andReg | xorReg | ldVxDt =>
    cases h
    exact ownWrites_writeReg rfl
  case addReg | subReg | shrReg | subnReg | shlReg =>
    cases h
    exact ownWrites_writeResultFlag fun _ hr => hr
  case jp | jpV0 =>
    cases h
    exact ownWrites_update fun _ h => absurd rfl h
  case seImm | sneImm | seReg | sneReg =>
    cases h
    exact ownWrites_skipIf ..
  case skp x =>
    cases hk : keyIndex s.cfg (s.readReg x) with
    | ok k => cases (exec_skp_of_ok hk).symm.trans h; exact ownWrites_skipIf ..
    | error r => cases (exec_skp_of_error hk).symm.trans h; exact ownWrites_instrFault ..
  case sknp x =>
    cases hk : keyIndex s.cfg (s.readReg x) with
    | ok k => cases (exec_sknp_of_ok hk).symm.trans h; exact ownWrites_skipIf ..
    | error r => cases (exec_sknp_of_error hk).symm.trans h; exact ownWrites_instrFault ..
  case ldVxKey x =>
    cases hk : lowestKey s.keys with
    | some k => cases (exec_ldVxKey_of_some hk).symm.trans h; exact ownWrites_writeReg rfl
    | none =>
      cases (exec_ldVxKey_of_none hk).symm.trans h
      exact ownWrites_update fun _ h => absurd rfl h
  case loadRegs x =>
    rcases exec_range_cases exec_loadRegs_of_ok exec_loadRegs_of_error h with ⟨l, hl, rfl⟩ | ⟨r, rfl⟩
    · rw [map_readMem_eq_spriteRows hl, writeRegsFrom_rest]
      refine ownWrites_update fun r hr => ?_
      by_contra hgt
      exact hr ((readReg_writeRegsFrom_spriteRows s x r).trans (if_neg hgt))
    · exact ownWrites_instrFault ..
  case ret =>
    rcases pop_cases s with ⟨hempty, -⟩ | ⟨hpos, -⟩
    · cases (exec_ret_of_empty hempty).symm.trans h; exact ownWrites_instrFault ..
    · cases (exec_ret_of_pos hpos).symm.trans h; constructor <;> simp
  case call nnn =>
    rcases push_cases s.pc s with ⟨hfull, -⟩ | ⟨hroom, -⟩
    · cases (exec_call_of_full nnn hfull).symm.trans h; exact ownWrites_instrFault ..
    · cases (exec_call_of_lt nnn hroom).symm.trans h; constructor <;> simp
  case ldBcd x =>
    rcases exec_range_cases exec_ldBcd_of_ok exec_ldBcd_of_error h with ⟨l, -, rfl⟩ | ⟨r, rfl⟩
    · constructor <;> simp
    · exact ownWrites_instrFault ..
  case storeRegs x =>
    rcases exec_range_cases exec_storeRegs_of_ok exec_storeRegs_of_error h with ⟨l, -, rfl⟩ | ⟨r, rfl⟩
    · constructor <;> simp
    · exact ownWrites_instrFault ..
  case drw x y n =>
    rcases exec_range_cases exec_drw_of_ok exec_drw_of_error h with ⟨l, -, rfl⟩ | ⟨r, rfl⟩
    · constructor <;> simp [MayWriteReg]
    · exact ownWrites_instrFault ..
  case addI x =>
    cases h
    constructor <;> simp [MayWriteReg]
  case cls | ldI | ldFont | ldDtVx | ldStVx =>
    cases h
    constructor <;> simp

/-- Settles O57: the parts of the state other than the registers, each with its own writers. -/
theorem eachStateHasItsWriters : Obligations.EachStateHasItsWriters := by
  intro i s t h
  obtain ⟨-, hfb, hmem, hindex, hstack, hdt, hst⟩ := exec_ownWrites h
  exact ⟨hfb, hmem, hindex, hstack, hdt, hst⟩

/-- Settles O58: an instruction that may write VF writes it as a flag, or names it as VX; FX65 reaches VF
only with X = F. -/
theorem onlyFlagWritersAndDestinationsChangeVF :
    Obligations.OnlyFlagWritersAndDestinationsChangeVF := by
  intro i s t h hne
  have hF : MayWriteReg i 0xF#4 := (exec_ownWrites h).regs _ hne
  cases i
  case addReg x y | subReg x y | shrReg x y | subnReg x y | shlReg x y =>
    exact .inl ⟨x, y, 0, by simp⟩
  case addI x => exact .inl ⟨x, 0, 0, by simp⟩
  case drw x y n => exact .inl ⟨x, y, n, by simp⟩
  case ldImm x nn | addImm x nn | rnd x nn =>
    obtain rfl : 0xF#4 = x := hF
    exact .inr ⟨0, nn, by simp⟩
  case ldReg x y | orReg x y | andReg x y | xorReg x y =>
    obtain rfl : 0xF#4 = x := hF
    exact .inr ⟨y, 0, by simp⟩
  case ldVxDt x | ldVxKey x =>
    obtain rfl : 0xF#4 = x := hF
    exact .inr ⟨0, 0, by simp⟩
  case loadRegs x =>
    have hle : 15 ≤ x.toNat := hF
    have hx : x = 0xF#4 := BitVec.eq_of_toNat_eq (by have := x.isLt; simp; omega)
    exact .inr ⟨0, 0, by simp [hx]⟩
  all_goals exact hF.elim

/-! ## Suspension (R166) -/

/-- Settles O59: an instruction that completes keeps the mode but for FX0A, and a fault halts. -/
theorem onlyKeyWaitSuspends : Obligations.OnlyKeyWaitSuspends := by
  intro i s t h
  rcases exec_cases i s with ⟨u, hu, -, hmode⟩ | ⟨r, hr, -⟩
  · cases hu.symm.trans h
    rcases hmode with hsame | hwait
    · exact .inl hsame
    · exact .inr (.inr hwait)
  · cases hr.symm.trans h
    exact .inr (.inl rfl)

/-! ## The inputs of a Cycle (R32, R33, R40) -/

/-- The state with other inputs on the ports. -/
def State.withInputs (keys : BitVec 16) (rnd : Byte) (s : State) : State :=
  { s with keys := keys, rnd := rnd }

/-- The instructions that read the key snapshot (R32). -/
def ReadsKeys (i : Instr) : Prop := ∃ x, i = .skp x ∨ i = .sknp x ∨ i = .ldVxKey x

/-- The instructions that read the random byte (R33). -/
def ReadsRnd (i : Instr) : Prop := ∃ x nn, i = .rnd x nn

theorem exec_keeps_inputs {i : Instr} {s t : State} (h : exec i s = .next t) :
    t.keys = s.keys ∧ t.rnd = s.rnd := by
  rcases exec_cases i s with ⟨u, hu, ⟨-, -, ⟨-, -, hkeys, hrnd, -⟩, -⟩, -⟩ | ⟨r, hr, -⟩
  · cases hu.symm.trans h
    exact ⟨hkeys, hrnd⟩
  · cases hr.symm.trans h
    exact ⟨rfl, rfl⟩

theorem retire_skipIf_withInputs (s : State) (keys : BitVec 16) (rnd : Byte) (b : Bool) :
    retire ((s.withInputs keys rnd).skipIf b)
      = .next (((s.skipIf b).report .executed).withInputs keys rnd) := by
  cases b <;> rfl

theorem writeRegsFrom_withInputs (keys : BitVec 16) (rnd : Byte) :
    ∀ (bs : List Byte) (k : Nat) (s : State),
      (s.withInputs keys rnd).writeRegsFrom k bs = (s.writeRegsFrom k bs).withInputs keys rnd
  | [], _, _ => rfl
  | b :: bs, k, s => writeRegsFrom_withInputs keys rnd bs (k + 1) (s.writeReg (BitVec.ofNat 4 k) b)

/-- An instruction that resolves the range I, I + 1, … gives the same answer for other inputs, where what
it does with the addresses reads neither. -/
theorem exec_range_withInputs {i : Instr} {s t : State} {n : Nat} {f : State → List Nat → State}
    {keys : BitVec 16} {rnd : Byte}
    (hok : ∀ {s l}, s.indexAddrs n = .ok l → exec i s = .next (f s l))
    (herr : ∀ {s r}, s.indexAddrs n = .error r → exec i s = .next (instrFault i r s))
    (hf : ∀ l, f (s.withInputs keys rnd) l = (f s l).withInputs keys rnd)
    (h : exec i s = .next t) : exec i (s.withInputs keys rnd) = .next (t.withInputs keys rnd) := by
  cases hl : s.indexAddrs n with
  | ok l =>
    cases (hok hl).symm.trans h
    exact (hok (s := s.withInputs keys rnd) hl).trans (by rw [hf])
  | error r =>
    cases (herr hl).symm.trans h
    exact herr (s := s.withInputs keys rnd) hl

/-- Other inputs give the same answer, but for the ports, where the instruction does not read the input
that differs. -/
theorem exec_withInputs {i : Instr} {s t : State} {keys : BitVec 16} {rnd : Byte}
    (h : exec i s = .next t) (hkeys : ReadsKeys i → keys = s.keys) (hrnd : ReadsRnd i → rnd = s.rnd) :
    exec i (s.withInputs keys rnd) = .next (t.withInputs keys rnd) := by
  cases i
  case rnd x nn =>
    obtain rfl := hrnd ⟨x, nn, rfl⟩
    cases h
    rfl
  case seImm | sneImm | seReg | sneReg =>
    cases h
    exact retire_skipIf_withInputs ..
  case skp x =>
    obtain rfl := hkeys ⟨x, .inl rfl⟩
    cases hk : keyIndex s.cfg (s.readReg x) with
    | ok k =>
      cases (exec_skp_of_ok hk).symm.trans h
      exact (exec_skp_of_ok (s := s.withInputs s.keys rnd) hk).trans (retire_skipIf_withInputs ..)
    | error r =>
      cases (exec_skp_of_error hk).symm.trans h
      exact exec_skp_of_error (s := s.withInputs s.keys rnd) hk
  case sknp x =>
    obtain rfl := hkeys ⟨x, .inr (.inl rfl)⟩
    cases hk : keyIndex s.cfg (s.readReg x) with
    | ok k =>
      cases (exec_sknp_of_ok hk).symm.trans h
      exact (exec_sknp_of_ok (s := s.withInputs s.keys rnd) hk).trans (retire_skipIf_withInputs ..)
    | error r =>
      cases (exec_sknp_of_error hk).symm.trans h
      exact exec_sknp_of_error (s := s.withInputs s.keys rnd) hk
  case ldVxKey x =>
    obtain rfl := hkeys ⟨x, .inr (.inr rfl)⟩
    cases hk : lowestKey s.keys with
    | some k =>
      cases (exec_ldVxKey_of_some hk).symm.trans h
      exact exec_ldVxKey_of_some (s := s.withInputs s.keys rnd) hk
    | none =>
      cases (exec_ldVxKey_of_none hk).symm.trans h
      exact exec_ldVxKey_of_none (s := s.withInputs s.keys rnd) hk
  case ret =>
    rcases pop_cases s with ⟨hempty, -⟩ | ⟨hpos, -⟩
    · cases (exec_ret_of_empty hempty).symm.trans h
      exact exec_ret_of_empty (s := s.withInputs keys rnd) hempty
    · cases (exec_ret_of_pos hpos).symm.trans h
      exact exec_ret_of_pos (s := s.withInputs keys rnd) hpos
  case call nnn =>
    rcases push_cases s.pc s with ⟨hfull, -⟩ | ⟨hroom, -⟩
    · cases (exec_call_of_full nnn hfull).symm.trans h
      exact exec_call_of_full nnn (s := s.withInputs keys rnd) hfull
    · cases (exec_call_of_lt nnn hroom).symm.trans h
      exact exec_call_of_lt nnn (s := s.withInputs keys rnd) hroom
  case ldBcd x => exact exec_range_withInputs exec_ldBcd_of_ok exec_ldBcd_of_error (fun _ => rfl) h
  case storeRegs x =>
    exact exec_range_withInputs exec_storeRegs_of_ok exec_storeRegs_of_error (fun _ => rfl) h
  case drw x y n => exact exec_range_withInputs exec_drw_of_ok exec_drw_of_error (fun _ => rfl) h
  case loadRegs x =>
    refine exec_range_withInputs exec_loadRegs_of_ok exec_loadRegs_of_error (fun l => ?_) h
    exact congrArg (State.report .executed) (writeRegsFrom_withInputs keys rnd (l.map s.readMem) 0 s)
  all_goals
    cases h
    rfl

/-- A Cycle puts its own inputs on the ports before it does anything else. -/
theorem step_withInputs {s : State} {keys k : BitVec 16} {rnd r : Byte} {rest : List Transaction}
    (hp : s.pending = .cycle keys rnd :: rest) : step (s.withInputs k r) = step s := by
  rw [step_cycle hp, step_cycle (s := s.withInputs k r) hp]
  rfl

/-- Settles O60: the input that does not differ is the one `s` holds, which the instruction keeps; and the
end of the Cycle takes both off the ports. -/
theorem inputsReachOnlyTheirReaders : Obligations.InputsReachOnlyTheirReaders := by
  refine ⟨fun i s t keys rnd h => ?_, fun s t keys k rnd r rest hp h => ?_⟩
  · obtain ⟨htk, htr⟩ := exec_keeps_inputs h
    refine ⟨fun hno => ?_, fun hno => ?_⟩
    · have hkeys : ¬ ReadsKeys i := by
        rintro ⟨x, hi⟩
        obtain ⟨hskp, hsknp, hkey⟩ := hno x
        rcases hi with hi | hi | hi
        exacts [hskp hi, hsknp hi, hkey hi]
      have hexec := exec_withInputs (keys := keys) (rnd := s.rnd) h (absurd · hkeys) fun _ => rfl
      exact hexec.trans (by rw [State.withInputs, ← htr])
    · have hrnd : ¬ ReadsRnd i := fun ⟨x, nn, hi⟩ => hno x nn hi
      have hexec := exec_withInputs (keys := s.keys) (rnd := rnd) h (fun _ => rfl) (absurd · hrnd)
      exact hexec.trans (by rw [State.withInputs, ← htk])
  · refine ⟨(step_withInputs hp).trans h, ?_⟩
    rw [step_cycle hp] at h
    obtain ⟨u, -, rfl⟩ := finishCycle_eq_next h
    exact ⟨rfl, rfl⟩

end Sys2Proof.Machine
end
